-- ==== Sys2Proof/Word.lean ====
section
/-! DEFINITION. The one word type of OPKFE: every memory, channel and frame byte has 8 bits (rule R13). -/

namespace Sys2Proof

/-- A byte: 8 bits, bit 7 its high bit (R13, R16). -/
abbrev Byte := BitVec 8

end Sys2Proof
end

