-- ==== Sys2Proof/Syntax.lean ====
section
/-! DEFINITION. The instructions of OPKFE: one constructor for each row of spec/opcode_table.json (the host commands of
R107, the frame classes of R112, the SHORT kinds of R125, the micro-operations of R140..R143, R180 and R232, and the
control lines of R126), with the operands each row names. -/

namespace Sys2Proof

/-- The frame classes of R112. -/
inductive FrameClass where
  | endF | bad | long | short
  deriving DecidableEq, Repr

/-- The semantic kinds of SHORT frames, in the order of their codes 0..8 (R125). -/
inductive Kind where
  | dfdecl | diary | opl | comms | sheet | pager | notes | data | unknown
  deriving DecidableEq, Repr

/-- A frame descriptor, the operand of FRAME_ENC and the element of a record list for encoding (R138). -/
inductive FrameDesc where
  | endF
  | bad (lead : Byte)
  | long (lead : Byte) (payload : List Byte)
  | short (type : Byte) (payload : List Byte)
  deriving DecidableEq, Repr

/-- What ENCODE reads of its DecodedPack operand: `hdr`, the descriptors of `recs` and `tail`; "it ignores every other
field" (R195). -/
structure PackOperand where
  hdr : List Byte
  recs : List FrameDesc
  tail : List Byte
  deriving DecidableEq, Repr

/-- The instructions. A byte-string operand stands as given: an operand of the wrong length is refused by the machine
(R266), not by the syntax. `dst` and `src` name host buffers (R108). In a KIND row `live` is bit 7 of the type byte and
`len` the frame's length byte `b0` (R117, R125). -/
inductive Instr where
  -- host commands (R107)
  | decode (src : List Byte)
  | encode (pack : PackOperand) (cfg : BitVec 40) (dst : Nat)
  | frameEnc (d : FrameDesc) (dst : Nat)
  | frameClassify (bytes : List Byte)
  | hdrParse (h : List Byte)
  | csum (h : List Byte)
  | csumCheck (h : List Byte)
  | hdrPatch (h : List Byte) (cfg : BitVec 40)
  | startWrite (cfg : BitVec 40)
  | startRead (cfg : BitVec 40)
  | sessionOpen (src : Nat) (dst : Nat) (cfg : BitVec 40)
  | sessionClose
  -- frame classes (R112)
  | endFrame
  | badFrame (lead : Byte)
  | longFrame (lead : Byte) (len : BitVec 16)
  | shortFrame (len : Byte) (type : Byte)
  -- kinds of SHORT frames (R125)
  | kindUnknownFF (len : Byte)
  | kindDfdecl (live : Bool) (len : Byte)
  | kindUnknownShortdecl (live : Bool) (len : Byte)
  | kindDiary (live : Bool) (len : Byte)
  | kindOpl (live : Bool) (len : Byte)
  | kindComms (live : Bool) (len : Byte)
  | kindSheet (live : Bool) (len : Byte)
  | kindPager (live : Bool) (len : Byte)
  | kindNotes (live : Bool) (len : Byte)
  | kindUnknown80 (len : Byte)
  | kindUnknown88 (live : Bool) (low : BitVec 3) (len : Byte)
  | kindData90 (live : Bool) (low : BitVec 4) (len : Byte)
  | kindDataA0 (live : Bool) (low : BitVec 5) (len : Byte)
  | kindDataC0 (live : Bool) (low : BitVec 5) (len : Byte)
  | kindDataE0 (live : Bool) (low : BitVec 5) (len : Byte)
  -- micro-operations (R140..R143, R180, R232)
  | csaClr
  | csaAddHi (b : Byte)
  | csaAddLo (b : Byte)
  | csaCmp (w : BitVec 16)
  | walkStep
  | lineStep
  -- control lines (R126)
  | lineXXWrite
  | lineXXRead
  | lineXXExit
  deriving DecidableEq, Repr

end Sys2Proof
end

