-- ==== Sys2Proof/Decode.lean ====
section
/-! DEFINITION. The decoder and, after it, the encoder, from the encoding tables of spec/30_encoding.md. OPKFE reads
instructions in five places (the "format" column of spec/opcode_table.json), so an encoded instruction is a `Code`: a
host command on HCMD, the bytes at a frame's start, the type code of a SHORT frame, an internal selector, or the bytes
of a control line. -/

namespace Sys2Proof

/-! Byte order (R17, R67) -/

/-- `be16(h, l) = h*256 + l` (R17). -/
def be16 (h l : Byte) : BitVec 16 := h ++ l

/-- `be24(a, b, c) = a*65536 + b*256 + c` (R17). -/
def be24 (a b c : Byte) : BitVec 24 := a ++ b ++ c

/-- `hi8(w) = w[15:8]` (R17). -/
def hi8 (w : BitVec 16) : Byte := w.extractLsb' 8 8

/-- `lo8(w) = w[7:0]` (R17). -/
def lo8 (w : BitVec 16) : Byte := w.extractLsb' 0 8

/-- `bytes24(n) = [n[23:16], n[15:8], n[7:0]]` (R17). -/
def bytes24 (n : BitVec 24) : List Byte := [n.extractLsb' 16 8, n.extractLsb' 8 8, n.extractLsb' 0 8]

/-! Classes and kinds -/

/-- `classify(b0, b1)`: the first row of R112 that matches (R171). -/
def classify (b0 b1 : Byte) : FrameClass :=
  if b0 = 0xFF#8 then .endF
  else if b1 = 0xFF#8 then .bad
  else if b1 = 0x80#8 then .long
  else .short

/-- The type code `t = type | 0x80` (R117). -/
def typeCode (type : Byte) : Byte := type ||| 0x80#8

/-- The type byte of type code `t`: bit 7 is the live flag (R117). -/
def typeByte (t : Byte) (live : Bool) : Byte := if live then t ||| 0x80#8 else t &&& 0x7F#8

/-- The kind of type code `t` for payload length `len` (R125). -/
def kindOfCode (t : Byte) (len : Nat) : Kind :=
  if t = 0x81#8 then (if 9 ≤ len then .dfdecl else .unknown)
  else if t = 0x82#8 then .diary
  else if t = 0x83#8 then .opl
  else if t = 0x84#8 then .comms
  else if t = 0x85#8 then .sheet
  else if t = 0x86#8 then .pager
  else if t = 0x87#8 then .notes
  else if 0x90 ≤ t.toNat ∧ t.toNat ≤ 0xFE then .data
  else .unknown

/-- `kind_of(type, L)` (R172). -/
def kindOf (type : Byte) (len : Nat) : Kind := kindOfCode (typeCode type) len

/-- The kind codes 0..8 (R125). -/
def Kind.code : Kind → BitVec 4
  | .dfdecl => 0 | .diary => 1 | .opl => 2 | .comms => 3 | .sheet => 4
  | .pager => 5 | .notes => 6 | .data => 7 | .unknown => 8

/-! Encoded instructions -/

/-- The operand places of HCMD, passed by value beside the opcode byte (R107); a command reads only its own. -/
structure HostArgs where
  bytes : List Byte
  pack : PackOperand
  desc : FrameDesc
  cfg : BitVec 40
  src : Nat
  dst : Nat
  deriving DecidableEq, Repr

/-- One host command on HCMD: "an opcode byte and operands passed by value" (R107). -/
structure HostCmd where
  opcode : Byte
  args : HostArgs
  deriving DecidableEq, Repr

/-- The internal micro-operations: the table gives them no binary encoding. -/
inductive MicroOp where
  | csaClr | csaAddHi (b : Byte) | csaAddLo (b : Byte) | csaCmp (w : BitVec 16) | walkStep | lineStep
  deriving DecidableEq, Repr

/-- An encoded instruction, in the format of its table row. -/
inductive Code where
  | host (c : HostCmd)
  | frame (bytes : List Byte)
  | kind (t : Byte) (live : Bool) (len : Byte)
  | micro (m : MicroOp)
  | line (bytes : List Byte)
  deriving DecidableEq, Repr

/-- Why a code is no instruction. -/
inductive DecodeError where
  /-- The opcode is not in R107 (R130). -/
  | unassignedOpcode (opcode : Byte)
  /-- `n` bytes are needed to classify the frame (R170, R135). -/
  | needBytes (n : Nat)
  /-- The type code has bit 7 clear: `t` ranges over 0x80..0xFF (R117). -/
  | notTypeCode (t : Byte)
  /-- The pair is no SHORT frame: `L = 0xFF`, or a live type byte 0x80 or 0xFF (R116). -/
  | notShort
  /-- The line is no row of R126. -/
  | notControlLine
  deriving DecidableEq, Repr

/-! The decoder -/

/-- Host commands by opcode (R107); every other opcode is unassigned (R130). -/
def decodeHost (c : HostCmd) : Except DecodeError Instr :=
  match c.opcode.toNat with
  | 0x01 => .ok (.decode c.args.bytes)
  | 0x02 => .ok (.encode c.args.pack c.args.cfg c.args.dst)
  | 0x03 => .ok (.frameEnc c.args.desc c.args.dst)
  | 0x04 => .ok (.frameClassify c.args.bytes)
  | 0x05 => .ok (.hdrParse c.args.bytes)
  | 0x06 => .ok (.csum c.args.bytes)
  | 0x07 => .ok (.csumCheck c.args.bytes)
  | 0x08 => .ok (.hdrPatch c.args.bytes c.args.cfg)
  | 0x10 => .ok (.startWrite c.args.cfg)
  | 0x11 => .ok (.startRead c.args.cfg)
  | 0x20 => .ok (.sessionOpen c.args.src c.args.dst c.args.cfg)
  | 0x21 => .ok .sessionClose
  | _ => .error (.unassignedOpcode c.opcode)

/-- The bytes at a frame's start, read as R135 says: `b0`, then `b1` unless `b0 = 0xFF`, then the two length bytes of a
LONG. Bytes after those are payload and are not looked at. -/
def decodeFrame : List Byte → Except DecodeError Instr
  | [] => .error (.needBytes 1)
  | b0 :: rest =>
    if b0 = 0xFF#8 then .ok .endFrame
    else match rest with
      | [] => .error (.needBytes 2)
      | b1 :: rest2 =>
        match classify b0 b1 with
        | .endF => .ok .endFrame
        | .bad => .ok (.badFrame b0)
        | .long =>
          match rest2 with
          | h :: l :: _ => .ok (.longFrame b0 (be16 h l))
          | _ => .error (.needBytes 4)
        | .short => .ok (.shortFrame b0 b1)

/-- The rows of the kind table R125 on `t`, in the table's order; `live` and `len` are the frame's bit 7 and `b0`. -/
def decodeKind (t : Byte) (live : Bool) (len : Byte) : Except DecodeError Instr :=
  if t.toNat < 0x80 then .error (.notTypeCode t)
  else if len = 0xFF#8 then .error .notShort
  else if t = 0xFF#8 then (if live then .error .notShort else .ok (.kindUnknownFF len))
  else if t = 0x81#8 then
    (if 9 ≤ len.toNat then .ok (.kindDfdecl live len) else .ok (.kindUnknownShortdecl live len))
  else if t = 0x82#8 then .ok (.kindDiary live len)
  else if t = 0x83#8 then .ok (.kindOpl live len)
  else if t = 0x84#8 then .ok (.kindComms live len)
  else if t = 0x85#8 then .ok (.kindSheet live len)
  else if t = 0x86#8 then .ok (.kindPager live len)
  else if t = 0x87#8 then .ok (.kindNotes live len)
  else if t = 0x80#8 then (if live then .error .notShort else .ok (.kindUnknown80 len))
  else if t.toNat < 0x90 then .ok (.kindUnknown88 live (t.extractLsb' 0 3) len)
  else if t.toNat < 0xA0 then .ok (.kindData90 live (t.extractLsb' 0 4) len)
  else if t.toNat < 0xC0 then .ok (.kindDataA0 live (t.extractLsb' 0 5) len)
  else if t.toNat < 0xE0 then .ok (.kindDataC0 live (t.extractLsb' 0 5) len)
  else .ok (.kindDataE0 live (t.extractLsb' 0 5) len)

/-- The bytes of the control line "XXWrite" (R126). -/
def bytesXXWrite : List Byte := [0x58, 0x58, 0x57, 0x72, 0x69, 0x74, 0x65]

/-- The bytes of the control line "XXRead" (R126). -/
def bytesXXRead : List Byte := [0x58, 0x58, 0x52, 0x65, 0x61, 0x64]

/-- The bytes of the control line "XXExit" (R126). -/
def bytesXXExit : List Byte := [0x58, 0x58, 0x45, 0x78, 0x69, 0x74]

/-- A line, its terminator removed, matches a row of R126 only if its bytes equal the row exactly (R126, R233). -/
def decodeLine (bytes : List Byte) : Except DecodeError Instr :=
  if bytes = bytesXXWrite then .ok .lineXXWrite
  else if bytes = bytesXXRead then .ok .lineXXRead
  else if bytes = bytesXXExit then .ok .lineXXExit
  else .error .notControlLine

/-- The micro-operations' selectors. -/
def decodeMicro : MicroOp → Instr
  | .csaClr => .csaClr
  | .csaAddHi b => .csaAddHi b
  | .csaAddLo b => .csaAddLo b
  | .csaCmp w => .csaCmp w
  | .walkStep => .walkStep
  | .lineStep => .lineStep

/-- The decoder, total on every code. -/
def decode : Code → Except DecodeError Instr
  | .host c => decodeHost c
  | .frame bytes => decodeFrame bytes
  | .kind t live len => decodeKind t live len
  | .micro m => .ok (decodeMicro m)
  | .line bytes => decodeLine bytes

/-! The encoder -/

/-- Operands that are all absent or zero. -/
def noArgs : HostArgs :=
  { bytes := [], pack := { hdr := [], recs := [], tail := [] }, desc := .endF, cfg := 0, src := 0, dst := 0 }

/-- The code of an instruction, from the same tables. -/
def encode : Instr → Code
  | .decode src => .host { opcode := 0x01, args := { noArgs with bytes := src } }
  | .encode pack cfg dst => .host { opcode := 0x02, args := { noArgs with pack := pack, cfg := cfg, dst := dst } }
  | .frameEnc d dst => .host { opcode := 0x03, args := { noArgs with desc := d, dst := dst } }
  | .frameClassify bytes => .host { opcode := 0x04, args := { noArgs with bytes := bytes } }
  | .hdrParse h => .host { opcode := 0x05, args := { noArgs with bytes := h } }
  | .csum h => .host { opcode := 0x06, args := { noArgs with bytes := h } }
  | .csumCheck h => .host { opcode := 0x07, args := { noArgs with bytes := h } }
  | .hdrPatch h cfg => .host { opcode := 0x08, args := { noArgs with bytes := h, cfg := cfg } }
  | .startWrite cfg => .host { opcode := 0x10, args := { noArgs with cfg := cfg } }
  | .startRead cfg => .host { opcode := 0x11, args := { noArgs with cfg := cfg } }
  | .sessionOpen src dst cfg => .host { opcode := 0x20, args := { noArgs with src := src, dst := dst, cfg := cfg } }
  | .sessionClose => .host { opcode := 0x21, args := noArgs }
  | .endFrame => .frame [0xFF]
  | .badFrame lead => .frame [lead, 0xFF]
  | .longFrame lead len => .frame [lead, 0x80, hi8 len, lo8 len]
  | .shortFrame len type => .frame [len, type]
  | .kindUnknownFF len => .kind 0xFF false len
  | .kindDfdecl live len => .kind 0x81 live len
  | .kindUnknownShortdecl live len => .kind 0x81 live len
  | .kindDiary live len => .kind 0x82 live len
  | .kindOpl live len => .kind 0x83 live len
  | .kindComms live len => .kind 0x84 live len
  | .kindSheet live len => .kind 0x85 live len
  | .kindPager live len => .kind 0x86 live len
  | .kindNotes live len => .kind 0x87 live len
  | .kindUnknown80 len => .kind 0x80 false len
  | .kindUnknown88 live low len => .kind (0x11#5 ++ low) live len
  | .kindData90 live low len => .kind (0x9#4 ++ low) live len
  | .kindDataA0 live low len => .kind (0x5#3 ++ low) live len
  | .kindDataC0 live low len => .kind (0x6#3 ++ low) live len
  | .kindDataE0 live low len => .kind (0x7#3 ++ low) live len
  | .csaClr => .micro .csaClr
  | .csaAddHi b => .micro (.csaAddHi b)
  | .csaAddLo b => .micro (.csaAddLo b)
  | .csaCmp w => .micro (.csaCmp w)
  | .walkStep => .micro .walkStep
  | .lineStep => .micro .lineStep
  | .lineXXWrite => .line bytesXXWrite
  | .lineXXRead => .line bytesXXRead
  | .lineXXExit => .line bytesXXExit

/-! The words of spec/opcode_table.json -/

/-- Operands of zeros: the shortest operands of the form the opcode takes (R107), every byte of them 0x00. -/
def zeroArgs (opcode : Nat) : HostArgs :=
  { noArgs with
    bytes := List.replicate
      (if opcode = 0x04 then 1 else if opcode = 0x05 ∨ opcode = 0x07 ∨ opcode = 0x08 then 10
       else if opcode = 0x06 then 8 else 0) 0
    pack := { hdr := List.replicate 10 0, recs := [], tail := [] } }

/-- The `n` bytes of a number, most significant first. -/
def wordBytes : Nat → Nat → List Byte
  | 0, _ => []
  | n + 1, w => wordBytes n (w / 256) ++ [BitVec.ofNat 8 w]

/-- A discriminator pair `w = be16(b0, b1)` of the table: END, BAD and LONG first, as R112 orders them; then the kind
rows, whose patterns stand on the type code with bit 7 set; every other pair is the SHORT row. Operand bytes after the
pair are zeros. -/
def pairCode (b0 b1 : Byte) : Code :=
  if classify b0 b1 = .short ∧ b1.msb then .kind b1 true b0
  else .frame [b0, b1, 0, 0]

/-- The code of a table word: a byte 0x01..0x7F is a host opcode, any other byte and every 16-bit word a discriminator
pair, and a 48-bit or 56-bit word a control line, its first byte the most significant one (the table's own patterns). -/
def tableCode (nbits w : Nat) : Option Code :=
  if nbits = 8 ∧ 0 < w ∧ w < 0x80 then some (.host { opcode := BitVec.ofNat 8 w, args := zeroArgs w })
  else if nbits = 8 ∨ nbits = 16 then some (pairCode (BitVec.ofNat 8 (w / 256)) (BitVec.ofNat 8 w))
  else if nbits = 48 ∨ nbits = 56 then some (.line (wordBytes (nbits / 8) w))
  else none

/-- The instruction the decoder reads from a word of the opcode table. -/
def decodeTableWord (nbits w : Nat) : Option Instr :=
  match tableCode nbits w with
  | none => none
  | some c => (decode c).toOption

end Sys2Proof
end

