-- ==== Sys2Proof/Machine/State.lean ====
section
/-! DEFINITION. The state of OPKFE: every register of spec/10_state.md, the channel, the buffers of the SRC and DST index
spaces, the host ports, and the schedule that says which agent moves next. Plain data throughout. INVENTORY.md lists each
field with its rule and reset value. -/

namespace Sys2Proof.Machine

/-! Memory (R61 to R63) -/

/-- A byte string of an index space (SRC or DST) as cells (index, byte): indices 0, 1, 2, … in order. An index that is
not listed does not exist and reads as no value (R62, R63, entry I12). -/
abbrev Memory := List Host.Cell

/-- The host's buffers by number, numbers strictly rising, no buffer listed that is empty; a number that is not listed
names the empty byte string (R63, R108). -/
abbrev Store := List (Nat × Memory)

/-! Sequencing registers -/

/-- WSTATE (R25): the values 0..5; 6 and 7 are never written. -/
inductive WState where
  | wIdle | wHeader | wRecords | wEnd | wSize | wTrunc
  deriving DecidableEq, Repr

/-- XSTATE (R37): the values 0..11; 12..15 are never written. -/
inductive XState where
  | xClosed | xIdle | wrCheck | wrDrain | wrToken | wrSize | wrSend | wrEcho | rdInit | rdSize | rdWait | rdFinish
  deriving DecidableEq, Repr

/-- OPKIND (R44): 0 write, 1 read. -/
inductive OpKind where
  | write | read
  deriving DecidableEq, Repr

/-- The names of the STATUS codes (R260). -/
inductive Status where
  | ok | badMagic | truncated | sizeMismatch | checksumMismatch | idNotFound
  | timeout | verifyFailed | packTooLarge | notAnOpkFile | sizeError
  | channelError | badConfig | frameInvalid | badCommand
  deriving DecidableEq, Repr

/-! The walk's lists -/

/-- Name (8 bytes, raw) and id of a datafile declaration (R118). -/
structure Decl where
  name : List Byte
  id : Byte
  deriving DecidableEq, Repr

/-- One entry of the datafile registry REG (R34). -/
structure RegEntry where
  name : List Byte
  id : Byte
  declAddr : BitVec 25
  deriving DecidableEq, Repr

/-- The owner of a data record: `FOUND(name, id)` or `NOT_FOUND` (R35, R186). -/
inductive Owner where
  | found (d : Decl)
  | notFound
  deriving DecidableEq, Repr

/-- The classes a record entry can have: END is not a record (R113, R35). -/
inductive RecClass where
  | bad | long | short
  deriving DecidableEq, Repr

/-- One entry of RECS (R35). A field the rule marks "n/a" for the class, or gives only for a kind, is `none` there. -/
structure RecEntry where
  cls : RecClass
  addr : BitVec 25
  b0 : Byte
  b1 : Byte
  len : BitVec 16
  payload : List Byte
  deleted : Option Bool
  kind : Option Kind
  decl : Option Decl
  dfId : Option Byte
  owner : Option Owner
  deriving DecidableEq, Repr

/-! Result data (R107) -/

/-- The validator's results (R148). -/
inductive CheckResult where
  | isMatch | mismatch | notApplicable
  deriving DecidableEq, Repr

/-- The timestamp fields and their decoded values (R105, R144). -/
structure Timestamp where
  yr : Byte
  mth : Byte
  day : Byte
  hr : Byte
  counter : BitVec 16
  year : Nat
  month : Nat
  dayOfMonth : Nat
  hour : Nat
  deriving DecidableEq, Repr

/-- The boot descriptor (R105, R144). -/
structure BootDescriptor where
  codeType : Byte
  deviceId : Byte
  version : Byte
  priority : Byte
  bootAddr : BitVec 16
  deriving DecidableEq, Repr

/-- The header mode with the fields of that mode (R144). -/
inductive HdrMode where
  | timestamp (ts : Timestamp)
  | boot (bd : BootDescriptor)
  deriving DecidableEq, Repr

/-- The result of HDR_PARSE (R144). `flags[i]` is bit i of `id`; `computed` is `none` in boot mode. -/
structure HdrInfo where
  id : Byte
  ram : Bool
  paged : Bool
  writeProtected : Bool
  sizeCode : Byte
  capacity : BitVec 21
  mode : HdrMode
  stored : BitVec 16
  computed : Option (BitVec 16)
  result : CheckResult
  deriving DecidableEq, Repr

/-- A SHORT frame as FRAME_CLASSIFY answers it (R170). -/
structure ShortInfo where
  len : Nat
  type : Byte
  t : Byte
  deleted : Bool
  kind : Kind
  size : Nat
  dfId : Option Byte
  decl : Option Decl
  deriving DecidableEq, Repr

/-- The result of FRAME_CLASSIFY (R170). -/
inductive Classified where
  | endF (size : Nat)
  | incomplete (n : Nat)
  | bad (lead : Byte) (len size : Nat)
  | long (lead : Byte) (len size : Nat)
  | short (i : ShortInfo)
  deriving DecidableEq, Repr

/-- A DecodedPack (R195). -/
structure DecodedPack where
  hdr : List Byte
  header : HdrInfo
  size : BitVec 24
  recs : List RecEntry
  registry : List RegEntry
  nShort : BitVec 24
  nLong : BitVec 24
  nBad : BitVec 24
  terminal : WState
  endAddr : Option (BitVec 25)
  tail : List Byte
  diag : BitVec 4
  deriving DecidableEq, Repr

/-- The result data of a command (R107). -/
inductive Result where
  | none
  | decoded (p : DecodedPack)
  | classified (c : Classified)
  | header (h : HdrInfo)
  | csum (w : BitVec 16)
  | check (r : CheckResult)
  | patched (h : List Byte)
  deriving DecidableEq, Repr

/-- What HRSP carries: STATUS, DIAG and the command's result data (R60, R107). -/
structure Response where
  status : Byte
  diag : Byte
  result : Result
  deriving DecidableEq, Repr

/-! The other agents (R3, R264, R283) -/

/-- What an agent other than OPKFE can do. -/
inductive EnvEvent where
  /-- The host offers a command on HCMD. -/
  | hostCommand (c : HostCmd)
  /-- The MCU peer appends a byte to RXQ. -/
  | rxByte (b : Byte)
  /-- The MCU peer removes the first byte of TXQ. -/
  | txTaken
  /-- The transport sets the level of CH_ERR. -/
  | chErrLevel (asserted : Bool)
  /-- The duration T_ECHO of the armed timer ends. -/
  | timerExpires
  /-- The host fills source buffer `n`. -/
  | fillSource (n : Nat) (bytes : List Byte)
  /-- The host replaces the contents of sink `n`. -/
  | fillSink (n : Nat) (bytes : List Byte)
  deriving DecidableEq, Repr

/-- One entry of the schedule: OPKFE moves, or another agent does. -/
inductive Turn where
  | opkfe
  | env (e : EnvEvent)
  deriving DecidableEq, Repr

/-! The state -/

/-- The state of the machine. Fields marked MODEL are the model's own and not the spec's (log entries 4, 5, 6, 8). -/
structure State where
  /-- WSTATE (R25). -/
  wstate : WState
  /-- CUR (R26). -/
  cur : BitVec 25
  /-- SIZE (R27). -/
  size : BitVec 24
  /-- N_SHORT (R28). -/
  nShort : BitVec 24
  /-- N_LONG (R28). -/
  nLong : BitVec 24
  /-- N_BAD (R28). -/
  nBad : BitVec 24
  /-- HDR[0..9] (R29). -/
  hdr : List Byte
  /-- DIAG (R30). -/
  diag : Byte
  /-- STATUS (R31, R260). -/
  status : Byte
  /-- BUSY (R31). -/
  busy : Bool
  /-- END_ADDR (R32). -/
  endAddr : BitVec 25
  /-- END_VALID (R32). -/
  endValid : Bool
  /-- CFG (R33). -/
  cfg : BitVec 40
  /-- REG (R34). -/
  reg : List RegEntry
  /-- RECS (R35). -/
  recs : List RecEntry
  /-- CSA (R36). -/
  csa : BitVec 16
  /-- MODEL: `match`, the outcome of the last CSA_CMP (R143). -/
  csMatch : Bool
  /-- XSTATE (R37). -/
  xstate : XState
  /-- ADDR (R38). -/
  addr : BitVec 24
  /-- TSIZE (R39). -/
  tsize : BitVec 24
  /-- TIDX (R40). -/
  tidx : BitVec 16
  /-- LAST_TX (R41). -/
  lastTx : Byte
  /-- FFRUN (R42). -/
  ffrun : Byte
  /-- LINEBUF (R43). -/
  linebuf : List Byte
  /-- LINE_OVF (R43). -/
  lineOvf : Bool
  /-- OPKIND (R44). -/
  opkind : OpKind
  /-- The SRC binding of the session (R44, R230). -/
  srcBind : Option Nat
  /-- The DST binding of the session (R44, R230). -/
  dstBind : Option Nat
  /-- The timer: armed or not (R45). -/
  timer : Bool
  /-- SCFG (R49). -/
  scfg : BitVec 40
  /-- MODEL: what is left of `k`, the bytes the drain still discards (R239). -/
  drainLeft : Nat
  /-- MODEL: the size bytes `r[0..]` received so far (R249). -/
  rdSizeBytes : List Byte
  /-- MODEL: the payload byte `q` taken and not yet echoed (R251). -/
  rdPending : Option Byte
  /-- OPEN, the session flag of the channel (R66). -/
  chOpen : Bool
  /-- RXQ (R66). -/
  rxq : List Byte
  /-- TXQ (R66). -/
  txq : List Byte
  /-- CH_ERR, a level input (R60, R264). -/
  chErr : Bool
  /-- SRC of the codec command that runs (R62, R79). -/
  src : Memory
  /-- The host's source buffers, which SESSION_OPEN binds (R62, R108). -/
  sources : Store
  /-- The host's sinks, the DST index spaces (R63, R108). -/
  sinks : Store
  /-- HCMD: the commands offered and not yet taken, oldest first (R60, R264). -/
  hcmd : List HostCmd
  /-- HRSP: the last answer to the host (R60). -/
  hrsp : Response
  /-- MODEL: which agent moves next; when it is empty, OPKFE does (R3, R12). -/
  sched : List Turn
  deriving DecidableEq, Repr

/-! Reasons a step can stop -/

/-- Faults. Every one marks an error in the model or a broken host duty, not a behaviour of the block; all are safe: the
machine stops where the spec has no behaviour. -/
inductive Fault where
  /-- A read of SRC at an index at or past SRC_LEN (R62, entry I12). Raised by the reads of SRC. Safe. -/
  | srcOutOfRange
  /-- A read of an image address at or past SIZE (R64, entry I12). Raised by the reads of the image. Safe. -/
  | imageOutOfRange
  /-- An overwrite or truncation of DST past its length (R63). Raised by RD_FINISH. Safe. -/
  | dstOutOfRange
  /-- A read of LAST_TX outside WR_ECHO (R41, entry I11). Raised by the echo compare. Safe. -/
  | lastTxMeaningless
  /-- A read of END_ADDR while END_VALID = 0 (R32, entry I11). Raised by the result of DECODE. Safe. -/
  | endAddrMeaningless
  /-- WALK_STEP or a frame outside W_RECORDS, where the spec never performs one (R180). Safe. -/
  | notWalking
  /-- LINE_STEP outside X_IDLE with BUSY = 0, where the spec never performs it (R232). Safe. -/
  | notRecognising
  /-- A transfer operation with no buffer bound; SESSION_OPEN binds both (R230). Safe. -/
  | unboundBuffer
  /-- A drain step with RXQ empty though the count says a byte is there (R239). Safe. -/
  | drainUnderrun
  /-- BUSY = 1 outside a transfer operation while no DECODE runs: no rule leads there (R31, R197). Safe. -/
  | sequencing
  /-- The host changes a buffer that the running operation has bound (R62, R63, entry I21). Raised by `fillSource` and
  `fillSink`. Safe: "a model in which the host breaks a duty is outside the spec". -/
  | hostDuty
  deriving DecidableEq, Repr

/-- Refusals: the model has no meaning for the instruction. -/
inductive Refusal where
  /-- The instruction has no meaning yet; raised by `exec`'s arm for it. Safe. -/
  | notModelled (mnemonic : String)
  deriving DecidableEq, Repr

/-- What a step or an instruction answers. -/
abbrev Answer := Host.Outcome State Fault Refusal

/-- Power-on (R48, R290): every register 0 or empty, WSTATE W_IDLE, XSTATE X_CLOSED, STATUS OK, the queues empty, OPEN 0,
nothing bound. CH_ERR is "whatever the transport presents": clear here (log entry 7). -/
def State.reset : State where
  wstate := .wIdle
  cur := 0
  size := 0
  nShort := 0
  nLong := 0
  nBad := 0
  hdr := [0, 0, 0, 0, 0, 0, 0, 0, 0, 0]
  diag := 0
  status := 0
  busy := false
  endAddr := 0
  endValid := false
  cfg := 0
  reg := []
  recs := []
  csa := 0
  csMatch := false
  xstate := .xClosed
  addr := 0
  tsize := 0
  tidx := 0
  lastTx := 0
  ffrun := 0
  linebuf := []
  lineOvf := false
  opkind := .write
  srcBind := none
  dstBind := none
  timer := false
  scfg := 0
  drainLeft := 0
  rdSizeBytes := []
  rdPending := none
  chOpen := false
  rxq := []
  txq := []
  chErr := false
  src := []
  sources := []
  sinks := []
  hcmd := []
  hrsp := { status := 0, diag := 0, result := .none }
  sched := []

end Sys2Proof.Machine
end

