-- ==== Sys2Proof/Machine/Flags.lean ====
section
/-! DEFINITION. Flags and codes: the numbers of the STATUS codes and of the sequencing states, the DIAG bits, and the
arithmetic of the checksum, whose carries are recorded nowhere (R46). -/

namespace Sys2Proof.Machine

/-- The number of a STATUS code (R260). -/
def statusCode : Status → Byte
  | .ok => 0x00
  | .badMagic => 0x01
  | .truncated => 0x02
  | .sizeMismatch => 0x03
  | .checksumMismatch => 0x04
  | .idNotFound => 0x05
  | .timeout => 0x10
  | .verifyFailed => 0x11
  | .packTooLarge => 0x12
  | .notAnOpkFile => 0x13
  | .sizeError => 0x14
  | .channelError => 0x20
  | .badConfig => 0x30
  | .frameInvalid => 0x31
  | .badCommand => 0x32

/-- The number of a WSTATE value (R25). -/
def wstateCode : WState → BitVec 3
  | .wIdle => 0 | .wHeader => 1 | .wRecords => 2 | .wEnd => 3 | .wSize => 4 | .wTrunc => 5

/-- The number of an XSTATE value (R37). -/
def xstateCode : XState → BitVec 4
  | .xClosed => 0 | .xIdle => 1 | .wrCheck => 2 | .wrDrain => 3 | .wrToken => 4 | .wrSize => 5
  | .wrSend => 6 | .wrEcho => 7 | .rdInit => 8 | .rdSize => 9 | .rdWait => 10 | .rdFinish => 11

/-- DIAG bit 0, CSUM_MISMATCH (R30). -/
def diagCsumMismatch : Byte := 0x01

/-- DIAG bit 1, SIZE_MISMATCH (R30). -/
def diagSizeMismatch : Byte := 0x02

/-- DIAG bit 2, WALK_TRUNC (R30). -/
def diagWalkTrunc : Byte := 0x04

/-- DIAG bit 3, ID_NOT_FOUND (R30). -/
def diagIdNotFound : Byte := 0x08

/-- `diag(F)`: sets a bit of DIAG and clears none (R30). -/
def setDiag (flag : Byte) (s : State) : State := { s with diag := s.diag ||| flag }

/-- CSA after CSA_ADD_HI: `(CSA + zext16(b) * 256) mod 2^16` (R141). -/
def addHi (csa : BitVec 16) (b : Byte) : BitVec 16 := csa + b.zeroExtend 16 * 256#16

/-- CSA after CSA_ADD_LO: `(CSA + zext16(b)) mod 2^16` (R142). -/
def addLo (csa : BitVec 16) (b : Byte) : BitVec 16 := csa + b.zeroExtend 16

/-- The checksum formula over header bytes 0..7 (R145). -/
def checksum (h : List Byte) : BitVec 16 :=
  be16 (h.getD 0 0) (h.getD 1 0) + be16 (h.getD 2 0) (h.getD 3 0) + be16 (h.getD 4 0) (h.getD 5 0)
    + be16 (h.getD 6 0) (h.getD 7 0)

end Sys2Proof.Machine
end

