-- ==== Sys2Proof/Config.lean ====
section
/-! DEFINITION. The named parameters of rule R14. None is state and none changes while OPKFE runs (R14, R22).
The machine runs with ONE opaque value of them, so that no proof can lean on a value the spec leaves open. -/

namespace Sys2Proof

/-- The parameters of R14. Every value of this type is legal: the ranges R14 gives are built into the fields
(`numFfChkPred` 0..254 stands for NUM_FF_CHK 1..255, `lineMaxPred` 0..65534 for LINE_MAX 1..65535, and the token is
"XX" followed by `tokenTail`). HW_LIMIT is no parameter (`hwLimit`). -/
structure Params where
  /-- NUM_FF_CHK - 1 (decision D33: OPEN). -/
  numFfChkPred : Fin 255
  /-- T_ECHO - 1 in milliseconds. No rule reads it: only the order of `Rx` and `Tmo` shows (R307). -/
  tEchoPred : Nat
  /-- WRITE_TOKEN after its two ASCII "X" (decision D22: OPEN). -/
  tokenTail : List Byte
  /-- BOOT_SENSE: the value of id bit 4 that means bootable (decision D5, default 1). -/
  bootSense : Bool
  /-- DF_ID_OF where it differs from its default `t - 0x90`: pairs (type code, id), the first pair of a code counts
  (decision D8). The empty list is the default function; every function on 0x90..0xFE is some list. -/
  dfIdOverrides : List (Byte × Byte)
  /-- REGISTER_DELETED (decision D10, default true). -/
  registerDeleted : Bool
  /-- SENTINEL_BOUNDED (decision D29, default false). -/
  sentinelBounded : Bool
  /-- TRUNCATE_ON_RETRACT (decision D31, default false). -/
  truncateOnRetract : Bool
  /-- LINE_MAX - 1 (decision D23, default 256). -/
  lineMaxPred : Fin 65535
  deriving DecidableEq, Repr, Inhabited

/-- The parameters of the machine: a free value, nothing constrains it (R14; log entry 1). -/
opaque Config.params : Params

/-- HW_LIMIT, "fixed, 0xFFFF bytes, not a parameter" (R14). -/
def Config.hwLimit : Nat := 0xFFFF

end Sys2Proof
end

