-- ==== Sys2Proof/Machine/Operands.lean ====
section
/-! DEFINITION. Operand fields and pure functions of them: the parameters, the CFG layout, the header fields, the patch
functions, the frame descriptors and their bytes, the registry lookup, and the operand forms the machine refuses. -/

namespace Sys2Proof.Machine

/-! Parameters (R14) -/

/-- NUM_FF_CHK, 1..255. -/
def numFfChk (p : Params) : Byte := BitVec.ofNat 8 (p.numFfChkPred.val + 1)

/-- LINE_MAX, 1..65535. -/
def lineMax (p : Params) : Nat := p.lineMaxPred.val + 1

/-- WRITE_TOKEN: "XX" and the rest, at most 65536 bytes so that TIDX indexes it (R40). -/
def writeToken (p : Params) : List Byte := 0x58#8 :: 0x58#8 :: p.tokenTail.take 65534

/-- `df_id(type) = DF_ID_OF(type | 0x80)`, by default `t - 0x90` (R119, R174). -/
def dfId (p : Params) (type : Byte) : Byte :=
  match p.dfIdOverrides.find? (fun e => e.1 == typeCode type) with
  | some e => e.2
  | none => typeCode type - 0x90#8

/-! CFG fields (R33) -/

def cfgPackType (cfg : BitVec 40) : BitVec 2 := cfg.extractLsb' 0 2
def cfgSetPaged (cfg : BitVec 40) : Bool := cfg.getLsbD 2
def cfgSetWp (cfg : BitVec 40) : Bool := cfg.getLsbD 3
def cfgRecompute (cfg : BitVec 40) : Bool := cfg.getLsbD 4
def cfgSzOvrEn (cfg : BitVec 40) : Bool := cfg.getLsbD 5
def cfgSzOvr (cfg : BitVec 40) : Byte := cfg.extractLsb' 6 8
def cfgHwBound (cfg : BitVec 40) : Bool := cfg.getLsbD 14
/-- TERM_MODE: false fixed-size, true sentinel. -/
def cfgTermMode (cfg : BitVec 40) : Bool := cfg.getLsbD 15
def cfgTargetLen (cfg : BitVec 40) : BitVec 24 := cfg.extractLsb' 16 24

/-- A CFG with PACK_TYPE = 3 is refused with BAD_CONFIG (R33, R266 order 5). -/
def cfgLegal (cfg : BitVec 40) : Bool := cfgPackType cfg != 3#2

/-! Header fields (R103 to R106, R144) -/

/-- Byte i of a header operand. -/
def hdrByte (h : List Byte) (i : Nat) : Byte := h.getD i 0

/-- Boot mode: id bit 4 equals BOOT_SENSE (R144, R148). -/
def bootMode (p : Params) (h : List Byte) : Bool := (hdrByte h 0).getLsbD 4 == p.bootSense

/-- `stored = be16(h[8], h[9])` (R106). -/
def storedChecksum (h : List Byte) : BitVec 16 := be16 (hdrByte h 8) (hdrByte h 9)

/-- `capacity = zext21(h[1]) * 8192` (R104). -/
def capacityOf (sizeCode : Byte) : BitVec 21 := sizeCode.zeroExtend 21 * 8192#21

/-- The timestamp of R105. -/
def timestampOf (h : List Byte) : Timestamp where
  yr := hdrByte h 2
  mth := hdrByte h 3
  day := hdrByte h 4
  hr := hdrByte h 5
  counter := be16 (hdrByte h 6) (hdrByte h 7)
  year := 1900 + (hdrByte h 2).toNat
  month := (hdrByte h 3).toNat + 1
  dayOfMonth := (hdrByte h 4).toNat + 1
  hour := (hdrByte h 5).toNat

/-- The boot descriptor of R105. -/
def bootDescriptorOf (h : List Byte) : BootDescriptor where
  codeType := hdrByte h 2
  deviceId := hdrByte h 3
  version := hdrByte h 4
  priority := hdrByte h 5
  bootAddr := be16 (hdrByte h 6) (hdrByte h 7)

/-- The parsed header (R144), given what the checksum unit answered for it. -/
def headerInfo (p : Params) (h : List Byte) (computed : Option (BitVec 16)) (result : CheckResult) : HdrInfo where
  id := hdrByte h 0
  ram := !(hdrByte h 0).getLsbD 1
  paged := (hdrByte h 0).getLsbD 2
  writeProtected := !(hdrByte h 0).getLsbD 3
  sizeCode := hdrByte h 1
  capacity := capacityOf (hdrByte h 1)
  mode := if bootMode p h then .boot (bootDescriptorOf h) else .timestamp (timestampOf h)
  stored := storedChecksum h
  computed := computed
  result := result

/-! Header patch (R152, R153) -/

/-- PACK_TYPE's patch of bit 1: 1 force_rom sets it, 2 force_ram clears it (R152). -/
def patchPackType (cfg : BitVec 40) (b : Byte) : Byte :=
  if cfgPackType cfg = 1#2 then b ||| 0x02#8 else if cfgPackType cfg = 2#2 then b &&& 0xFD#8 else b

/-- SET_PAGED's patch: 1 sets bit 2 (R152). -/
def patchPaged (cfg : BitVec 40) (b : Byte) : Byte := if cfgSetPaged cfg then b ||| 0x04#8 else b

/-- SET_WP's patch: 1 clears bit 3 (R152). -/
def patchWp (cfg : BitVec 40) (b : Byte) : Byte := if cfgSetWp cfg then b &&& 0xF7#8 else b

/-- `patch_id(b, cfg)` (R152). -/
def patchId (b : Byte) (cfg : BitVec 40) : Byte := patchWp cfg (patchPaged cfg (patchPackType cfg b))

/-- The size code after the override (R153). -/
def patchSizeCode (b : Byte) (cfg : BitVec 40) : Byte := if cfgSzOvrEn cfg then cfgSzOvr cfg else b

/-- The header with bytes 0 and 1 patched (R151 up to the recompute). -/
def patchedHead (h : List Byte) (cfg : BitVec 40) : List Byte :=
  patchId (hdrByte h 0) cfg :: patchSizeCode (hdrByte h 1) cfg :: h.drop 2

/-! Frames -/

/-- `deleted(type) = (type[7] = 0)` (R173). -/
def deletedFlag (type : Byte) : Bool := !type.msb

/-- Name and id of a declaration payload: its first 8 bytes and the ninth (R118); none when it has fewer than 9. -/
def declOf (payload : List Byte) : Option Decl :=
  if payload.length < 9 then none else some { name := payload.take 8, id := payload.getD 8 0 }

/-- `frame_size` (R175) of a class with length L. -/
def frameSize (cls : FrameClass) (len : Nat) : Nat :=
  match cls with
  | .endF => 1
  | .bad => 2
  | .long => len + 4
  | .short => len + 2

/-- The bytes of a frame descriptor, or none where FRAME_ENC raises FRAME_INVALID (R134, R188). -/
def frameBytes : FrameDesc → Option (List Byte)
  | .endF => some [0xFF]
  | .bad lead => if lead = 0xFF#8 then none else some [lead, 0xFF]
  | .long lead p =>
    if lead = 0xFF#8 ∨ 0xFFFF < p.length then none
    else some (lead :: 0x80 :: hi8 (BitVec.ofNat 16 p.length) :: lo8 (BitVec.ofNat 16 p.length) :: p)
  | .short type p =>
    if 254 < p.length ∨ type = 0x80#8 ∨ type = 0xFF#8 then none
    else some (BitVec.ofNat 8 p.length :: type :: p)

/-- The frames of a record list laid end to end (R206), or none if one of them is FRAME_INVALID. -/
def packBytes : List FrameDesc → Option (List Byte)
  | [] => some []
  | d :: ds =>
    match frameBytes d, packBytes ds with
    | some f, some fs => some (f ++ fs)
    | _, _ => none

/-- The descriptor of a record entry, by its class (R138). -/
def descriptor (e : RecEntry) : FrameDesc :=
  match e.cls with
  | .bad => .bad e.b0
  | .long => .long e.b0 e.payload
  | .short => .short e.b1 e.payload

/-- What ENCODE reads of a DecodedPack (R195). -/
def packOperand (p : DecodedPack) : PackOperand where
  hdr := p.hdr
  recs := p.recs.map descriptor
  tail := p.tail

/-- The last entry of the registry with this id (R186). -/
def registryLookup (reg : List RegEntry) (id : Byte) : Option RegEntry := reg.reverse.find? (fun e => e.id == id)

/-- FRAME_CLASSIFY of a non-empty byte string (R170). -/
def classifyBytes (p : Params) : List Byte → Classified
  | [] => .incomplete 1
  | b0 :: rest =>
    if b0 = 0xFF#8 then .endF 1
    else match rest with
      | [] => .incomplete 2
      | b1 :: rest2 =>
        match classify b0 b1 with
        | .endF => .endF 1
        | .bad => .bad b0 0 2
        | .long =>
          match rest2 with
          | h :: l :: _ => .long b0 (be16 h l).toNat (frameSize .long (be16 h l).toNat)
          | _ => .incomplete 4
        | .short =>
          .short
            { len := b0.toNat
              type := b1
              t := typeCode b1
              deleted := deletedFlag b1
              kind := kindOf b1 b0.toNat
              size := frameSize .short b0.toNat
              dfId := if kindOf b1 b0.toNat = .data then some (dfId p b1) else none
              decl := if kindOf b1 b0.toNat = .dfdecl then declOf (rest2.take 9) else none }

/-! Containers -/

/-- The magic "OPK" (R100). -/
def magic : List Byte := [0x4F, 0x50, 0x4B]

/-- The container of an image: magic, `bytes24(n)`, image (R65, R137). -/
def containerOf (img : List Byte) : List Byte := magic ++ bytes24 (BitVec.ofNat 24 img.length) ++ img

/-- The size field of a container (R101). -/
def containerSize (c : List Byte) : BitVec 24 := be24 (c.getD 3 0) (c.getD 4 0) (c.getD 5 0)

end Sys2Proof.Machine
end

