-- ==== Sys2Proof/Machine/Ops.lean ====
section
/-! DEFINITION. The shared operations: byte strings as memory, the host's buffers, SRC and the image, DST, the channel
and its waits, the acceptance, refusal and completion of commands, and the abort (OPKFE's one way of taking an error,
R270; there is no return from it, R271). -/

namespace Sys2Proof.Machine

/-! Memory (R62, R63) -/

/-- The cells of a byte string from index `a` on. -/
def Memory.ofBytesAt : Nat → List Byte → Memory
  | _, [] => []
  | a, b :: bs => (a, b) :: Memory.ofBytesAt (a + 1) bs

/-- The memory that holds a byte string, its first byte at index 0. -/
def Memory.ofBytes (bs : List Byte) : Memory := Memory.ofBytesAt 0 bs

/-- The bytes of a memory in index order. -/
def Memory.bytes (m : Memory) : List Byte := m.map (fun c => c.2)

/-- The byte at an index; an index that is not listed reads as no value. -/
def Memory.read : Memory → Nat → Option Byte
  | [], _ => none
  | (k, b) :: m, a => if k = a then some b else Memory.read m a

/-- `DstAppend(b)`: the length grows by 1, the new byte is last (R63). -/
def Memory.append (m : Memory) (b : Byte) : Memory := m ++ [(m.length, b)]

/-- Successive appends. -/
def Memory.appendAll : Memory → List Byte → Memory
  | m, [] => m
  | m, b :: bs => Memory.appendAll (Memory.append m b) bs

/-- One byte overwritten; none where the index does not exist (R63). -/
def Memory.write : Memory → Nat → Byte → Option Memory
  | [], _, _ => none
  | (k, c) :: m, a, b => if k = a then some ((k, b) :: m) else (Memory.write m a b).map (fun m' => (k, c) :: m')

/-- `MemWrite(DST, i, n, v)`: single-byte writes in index order (R63, R70). -/
def Memory.writeAll : Memory → Nat → List Byte → Option Memory
  | m, _, [] => some m
  | m, a, b :: bs =>
    match Memory.write m a b with
    | none => none
    | some m' => Memory.writeAll m' (a + 1) bs

/-- `DstTruncate(n)` with `n ≤ |DST|` (R63). -/
def Memory.truncate (m : Memory) (n : Nat) : Option Memory := if n ≤ m.length then some (m.take n) else none

/-- The canonical form: the indices are 0, 1, 2, … in order. -/
def Memory.wf (m : Memory) : Bool := m.map (fun c => c.1) == List.range m.length

/-! The host's buffers (R108) -/

/-- The buffer with this number. -/
def Store.get : Store → Nat → Memory
  | [], _ => []
  | (k, m) :: st, r => if k = r then m else Store.get st r

/-- The store with this buffer's contents replaced; an empty buffer is not listed. -/
def Store.set : Store → Nat → Memory → Store
  | [], r, m => if m.isEmpty then [] else [(r, m)]
  | (k, x) :: st, r, m =>
    if r < k then (if m.isEmpty then (k, x) :: st else (r, m) :: (k, x) :: st)
    else if r = k then (if m.isEmpty then st else (k, m) :: st)
    else (k, x) :: Store.set st r m

/-- Every number of the store is above `lo`, numbers rise strictly, and each buffer is canonical and not empty. -/
def Store.wfFrom : Nat → Store → Bool
  | _, [] => true
  | lo, (k, m) :: st => decide (lo ≤ k) && !m.isEmpty && Memory.wf m && Store.wfFrom (k + 1) st

/-- The canonical form of a store. -/
def Store.wf (st : Store) : Bool := Store.wfFrom 0 st

/-! Faults -/

/-- Goes on with a value, or stops with the fault. -/
def orFault {α : Type} (x : Except Fault α) (k : α → Answer) : Answer :=
  match x with
  | .ok v => k v
  | .error f => .fault f

/-! SRC and the image (R62, R64) -/

/-- `SrcByte(i)`. -/
def srcByte (m : Memory) (i : Nat) : Except Fault Byte :=
  match Memory.read m i with
  | some b => .ok b
  | none => .error .srcOutOfRange

/-- `ImgByte(a) = SrcByte(6 + a)` for `a < SIZE`. -/
def imgByte (s : State) (a : Nat) : Except Fault Byte :=
  if a < s.size.toNat then srcByte s.src (6 + a) else .error .imageOutOfRange

/-- The `n` image bytes from address `a` on. -/
def imgBytes (s : State) : Nat → Nat → Except Fault (List Byte)
  | _, 0 => .ok []
  | a, n + 1 =>
    match imgByte s a with
    | .error f => .error f
    | .ok b =>
      match imgBytes s (a + 1) n with
      | .error f => .error f
      | .ok bs => .ok (b :: bs)

/-- The source buffer the session has bound. -/
def boundSource (s : State) : Except Fault Memory :=
  match s.srcBind with
  | some r => .ok (Store.get s.sources r)
  | none => .error .unboundBuffer

/-! DST (R63) -/

/-- Sink `r`. -/
def sinkOf (s : State) (r : Nat) : Memory := Store.get s.sinks r

/-- Sink `r` with new contents. -/
def setSink (r : Nat) (m : Memory) (s : State) : State := { s with sinks := Store.set s.sinks r m }

/-- Appends bytes to sink `r`, one by one. -/
def appendSink (r : Nat) (bs : List Byte) (s : State) : State := setSink r (Memory.appendAll (sinkOf s r) bs) s

/-- The sink the session has bound. -/
def boundSink (s : State) : Except Fault Nat :=
  match s.dstBind with
  | some r => .ok r
  | none => .error .unboundBuffer

/-! Registers with a meaning only in some states (R32, R41) -/

/-- LAST_TX holds a meaning only in WR_ECHO (R41). -/
def readLastTx (s : State) : Except Fault Byte :=
  if s.xstate = .wrEcho then .ok s.lastTx else .error .lastTxMeaningless

/-- END_ADDR holds a meaning only while END_VALID = 1 (R32). -/
def readEndAddr (s : State) : Except Fault (BitVec 25) :=
  if s.endValid then .ok s.endAddr else .error .endAddrMeaningless

/-! Acceptance, completion and refusal of commands -/

/-- The end of a command or operation with this status: STATUS is written, BUSY falls, HRSP carries the answer (R31, R60). -/
def finish (code : Status) (result : Result) (s : State) : State :=
  { s with
    status := statusCode code
    busy := false
    hrsp := { status := statusCode code, diag := s.diag, result := result } }

/-- The start of an accepted host command: DIAG is cleared and BUSY rises (R30, R31, R291). -/
def accept (s : State) : State := { s with diag := 0, busy := true }

/-- `refuse(reason)`: STATUS is the reason and DIAG is cleared; nothing else of the block changes (R267). -/
def refuse (reason : Status) (s : State) : State := finish reason .none { s with diag := 0 }

/-- The refusal of a command offered while BUSY = 1: answered on HRSP only (R267). -/
def refuseBusy (s : State) : State :=
  { s with hrsp := { status := statusCode .badCommand, diag := s.diag, result := .none } }

/-- A host command: the refusals of R266 in their order (order 2, the opcode, is the decoder's), then the command.
`legal` is the state condition of R109, `formed` the operand form, `cfgOk` the PACK_TYPE condition. -/
def hostCommand (legal formed cfgOk : Bool) (body : State → Answer) (s : State) : Answer :=
  if s.busy then .next (refuseBusy s)
  else if !legal then .next (refuse .badCommand s)
  else if !formed then .next (refuse .badCommand s)
  else if !cfgOk then .next (refuse .badConfig s)
  else body (accept s)

/-! Session end and abort -/

/-- The end of the session (R236): STATUS is written, though R290 lists it among what a session end leaves (log entry
43). -/
def sessionEnd (code : Status) (s : State) : State :=
  finish code .none
    { s with
      chOpen := false
      xstate := .xClosed
      linebuf := []
      lineOvf := false
      srcBind := none
      dstBind := none
      timer := false }

/-- Is this a state of a transfer operation (R37)? -/
def XState.inOperation : XState → Bool
  | .xClosed => false
  | .xIdle => false
  | _ => true

/-- Abort entry, `raise Abort(code)` (R270): nothing is rolled back. A transfer operation returns to X_IDLE, a channel
error ends the session, and a codec command leaves XSTATE as it is. -/
def raiseAbort (code : Status) (s : State) : State :=
  if code = .channelError then sessionEnd .channelError s
  else finish code .none
    { s with
      xstate := if s.xstate.inOperation then .xIdle else s.xstate
      timer := false }

/-! The channel (R66, R262) -/

/-- `Tx(b)`: a transport error is taken here and aborts (R259, R288). -/
def transmit (b : Byte) (k : State → Answer) (s : State) : Answer :=
  if s.chErr then .next (raiseAbort .channelError s) else k { s with txq := s.txq ++ [b] }

/-- `await Rx(b) | Tmo | ChanErr` (R262): a transport error first, then the first byte of RXQ at once, else the timer is
armed and OPKFE waits. The timer is disarmed when the wait ends. -/
def awaitByte (k : Byte → State → Answer) (s : State) : Answer :=
  if s.chErr then .next (raiseAbort .channelError s)
  else match s.rxq with
    | b :: rest => k b { s with rxq := rest, timer := false }
    | [] => .next { s with timer := true }

/-! Transfer operations, entry and exit (R235) -/

/-- The entry common to both operations. -/
def operationEntry (s : State) : State :=
  { s with
    busy := true
    addr := 0
    tidx := 0
    tsize := 0
    linebuf := []
    lineOvf := false
    timer := false
    drainLeft := 0
    rdSizeBytes := []
    rdPending := none }

/-- The write operation starts: its check step is next (R238). -/
def writeOperation (s : State) : State := { operationEntry s with opkind := .write, xstate := .wrCheck }

/-- The read operation starts: RD_INIT is next (R248). -/
def readOperation (s : State) : State := { operationEntry s with opkind := .read, ffrun := 0, xstate := .rdInit }

/-- Normal exit. -/
def operationExit (s : State) : State := finish .ok .none { s with xstate := .xIdle }

/-! The checksum unit (R140 to R148) -/

/-- CSA_CLR. -/
def csaClear (s : State) : State := { s with csa := 0 }

/-- CSA_ADD_HI. -/
def csaAddHigh (b : Byte) (s : State) : State := { s with csa := addHi s.csa b }

/-- CSA_ADD_LO. -/
def csaAddLow (b : Byte) (s : State) : State := { s with csa := addLo s.csa b }

/-- CSA_CMP: `match <- (CSA = w)`; CSA is unchanged. -/
def csaCompare (w : BitVec 16) (s : State) : State := { s with csMatch := s.csa == w }

/-- Header byte i goes in by CSA_ADD_HI when i is even and by CSA_ADD_LO when i is odd (R147). -/
def csaFeed (i : Nat) (b : Byte) (s : State) : State := if i % 2 = 0 then csaAddHigh b s else csaAddLow b s

/-- Bytes fed from index i on. -/
def csaFeedAll : Nat → List Byte → State → State
  | _, [], s => s
  | i, b :: bs, s => csaFeedAll (i + 1) bs (csaFeed i b s)

/-- CSUM of header bytes 0..7: CSA_CLR, then the feed (R146). -/
def csumBytes (h : List Byte) (s : State) : State := csaFeedAll 0 (h.take 8) (csaClear s)

/-- CSUM_CHECK's body (R148). CSA is cleared at its start in both header modes (R291; log entry 16); CSUM clears it again
before it feeds a timestamp header. -/
def checkHeader (p : Params) (h : List Byte) (s : State) : State × CheckResult :=
  if bootMode p h then (csaClear s, .notApplicable)
  else
    ( csaCompare (storedChecksum h) (csumBytes h s)
    , if (csaCompare (storedChecksum h) (csumBytes h s)).csMatch then .isMatch else .mismatch )

/-- HDR_PARSE's body (R144). -/
def parseHeader (p : Params) (h : List Byte) (s : State) : State × HdrInfo :=
  ( (checkHeader p h s).1
  , headerInfo p h (if bootMode p h then none else some (checkHeader p h s).1.csa) (checkHeader p h s).2 )

/-- HDR_PATCH's body (R151, R154). -/
def patchHeader (h : List Byte) (cfg : BitVec 40) (s : State) : State × List Byte :=
  if cfgRecompute cfg then
    ( csumBytes (patchedHead h cfg) s
    , (patchedHead h cfg).take 8 ++
        [hi8 (csumBytes (patchedHead h cfg) s).csa, lo8 (csumBytes (patchedHead h cfg) s).csa] )
  else (s, patchedHead h cfg)

end Sys2Proof.Machine
end

