-- ==== Sys2Proof/Machine/Checksum.lean ====
section
/-! DEFINITION. The checksum unit's instructions: CSA_CLR, CSA_ADD_HI, CSA_ADD_LO, CSA_CMP, HDR_PARSE, CSUM, CSUM_CHECK
and HDR_PATCH (spec/40_header_checksum.md). -/

namespace Sys2Proof.Machine

/-- CSA_CLR (R140). -/
def execCsaClr (s : State) : Answer := .next (csaClear s)

/-- CSA_ADD_HI b (R141). -/
def execCsaAddHi (b : Byte) (s : State) : Answer := .next (csaAddHigh b s)

/-- CSA_ADD_LO b (R142). -/
def execCsaAddLo (b : Byte) (s : State) : Answer := .next (csaAddLow b s)

/-- CSA_CMP w (R143). -/
def execCsaCmp (w : BitVec 16) (s : State) : Answer := .next (csaCompare w s)

/-- CSUM with the parameters given (R146); the parameters do not enter. -/
def csumBody (h : List Byte) (s : State) : Answer := .next (finish .ok (.csum (csumBytes h s).csa) (csumBytes h s))

/-- CSUM h (R146). -/
def execCsum (h : List Byte) (s : State) : Answer := hostCommand true (h.length == 8) true (csumBody h) s

/-- CSUM_CHECK with the parameters given (R148). -/
def csumCheckBody (p : Params) (h : List Byte) (s : State) : Answer :=
  .next (finish .ok (.check (checkHeader p h s).2) (checkHeader p h s).1)

/-- CSUM_CHECK h (R148). -/
def execCsumCheck (h : List Byte) (s : State) : Answer :=
  hostCommand true (h.length == 10) true (csumCheckBody Config.params h) s

/-- HDR_PARSE with the parameters given (R144). -/
def hdrParseBody (p : Params) (h : List Byte) (s : State) : Answer :=
  .next (finish .ok (.header (parseHeader p h s).2) (parseHeader p h s).1)

/-- HDR_PARSE h (R144). -/
def execHdrParse (h : List Byte) (s : State) : Answer :=
  hostCommand true (h.length == 10) true (hdrParseBody Config.params h) s

/-- HDR_PATCH after its refusals: CFG is loaded, then the patch (R151, R108). -/
def hdrPatchBody (h : List Byte) (cfg : BitVec 40) (s : State) : Answer :=
  .next (finish .ok (.patched (patchHeader h cfg { s with cfg := cfg }).2) (patchHeader h cfg { s with cfg := cfg }).1)

/-- HDR_PATCH h, cfg (R151). -/
def execHdrPatch (h : List Byte) (cfg : BitVec 40) (s : State) : Answer :=
  hostCommand true (h.length == 10) (cfgLegal cfg) (hdrPatchBody h cfg) s

end Sys2Proof.Machine
end

