-- ==== Sys2Proof/Machine/Frames.lean ====
section
/-! DEFINITION. The record frames (spec/41_record_frames.md): FRAME_CLASSIFY, FRAME_ENC, the walk's effect of each frame
class (END, BAD, LONG, SHORT), and WALK_STEP. -/

namespace Sys2Proof.Machine

/-! FRAME_CLASSIFY and FRAME_ENC -/

/-- FRAME_CLASSIFY with the parameters given (R170). -/
def frameClassifyBody (p : Params) (bytes : List Byte) (s : State) : Answer :=
  .next (finish .ok (.classified (classifyBytes p bytes)) s)

/-- FRAME_CLASSIFY s (R170). -/
def execFrameClassify (bytes : List Byte) (s : State) : Answer :=
  hostCommand true (bytes.length != 0) true (frameClassifyBody Config.params bytes) s

/-- FRAME_ENC's body: FRAME_INVALID before the first append, else the frame's bytes go to the sink (R188). -/
def frameEncBody (d : FrameDesc) (dst : Nat) (s : State) : Answer :=
  match frameBytes d with
  | none => .next (raiseAbort .frameInvalid s)
  | some out => .next (finish .ok .none (appendSink dst out s))

/-- FRAME_ENC d (R188). -/
def execFrameEnc (d : FrameDesc) (dst : Nat) (s : State) : Answer := hostCommand true true true (frameEncBody d dst) s

/-! The registry (R185, R186) -/

/-- `registry_append(name, id, a)` with `a` the frame's address CUR (R185). -/
def registryAppend (d : Decl) (s : State) : State :=
  { s with reg := s.reg ++ [{ name := d.name, id := d.id, declAddr := s.cur }] }

/-- The owner that `registry_lookup` returns (R186). -/
def ownerOf (reg : List RegEntry) (id : Byte) : Owner :=
  match registryLookup reg id with
  | some e => .found { name := e.name, id := e.id }
  | none => .notFound

/-- `diag(ID_NOT_FOUND)` when the lookup found nothing (R186). -/
def noteOwner (o : Owner) (s : State) : State :=
  match o with
  | .found _ => s
  | .notFound => setDiag diagIdNotFound s

/-! The walk's outcomes (R180) -/

/-- CUR reached SIZE with no sentinel. -/
def walkSizeMismatch (s : State) : State := { setDiag diagSizeMismatch s with wstate := .wSize }

/-- END: the sentinel's address is END_ADDR and the walk ends. -/
def walkEnd (s : State) : State := { s with endAddr := s.cur, endValid := true, wstate := .wEnd }

/-- TRUNC: the frame at CUR needs bytes beyond SIZE; nothing is appended. -/
def walkTrunc (s : State) : State := { setDiag diagWalkTrunc s with wstate := .wTrunc }

/-- The first `n` bytes of the frame at CUR are in the image. -/
def frameFits (n : Nat) (s : State) : Bool := decide (s.cur.toNat + n ≤ s.size.toNat)

/-- The entry of a BAD frame (R35, R180). -/
def badEntry (lead : Byte) (s : State) : RecEntry where
  cls := .bad
  addr := s.cur
  b0 := lead
  b1 := 0xFF
  len := 0
  payload := []
  deleted := none
  kind := none
  decl := none
  dfId := none
  owner := none

/-- BAD: the record is appended and CUR advances by 2. -/
def walkBad (lead : Byte) (s : State) : State :=
  if frameFits 2 s then
    { s with recs := s.recs ++ [badEntry lead s], nBad := s.nBad + 1, cur := BitVec.ofNat 25 (s.cur.toNat + 2) }
  else walkTrunc s

/-- The entry of a LONG frame (R35, R180). -/
def longEntry (lead : Byte) (len : BitVec 16) (payload : List Byte) (s : State) : RecEntry where
  cls := .long
  addr := s.cur
  b0 := lead
  b1 := 0x80
  len := len
  payload := payload
  deleted := none
  kind := none
  decl := none
  dfId := none
  owner := none

/-- LONG after its bound checks. -/
def appendLong (lead : Byte) (len : BitVec 16) (payload : List Byte) (s : State) : State :=
  { s with
    recs := s.recs ++ [longEntry lead len payload s]
    nLong := s.nLong + 1
    cur := BitVec.ofNat 25 (s.cur.toNat + 4 + len.toNat) }

/-- LONG: the record is appended and CUR advances by L + 4. -/
def walkLong (lead : Byte) (len : BitVec 16) (s : State) : Answer :=
  if frameFits (4 + len.toNat) s then
    orFault (imgBytes s (s.cur.toNat + 4) len.toNat) (fun payload => .next (appendLong lead len payload s))
  else .next (walkTrunc s)

/-- The fields every SHORT entry has (R184). -/
def shortEntry (k : Kind) (len type : Byte) (payload : List Byte) (s : State) : RecEntry where
  cls := .short
  addr := s.cur
  b0 := len
  b1 := type
  len := len.zeroExtend 16
  payload := payload
  deleted := some (deletedFlag type)
  kind := some k
  decl := none
  dfId := none
  owner := none

/-- `short_entry`'s entry for kind `k` (R184). -/
def shortEntryOf (p : Params) (k : Kind) (len type : Byte) (payload : List Byte) (s : State) : RecEntry :=
  match k with
  | .dfdecl => { shortEntry k len type payload s with decl := declOf payload }
  | .data =>
    { shortEntry k len type payload s with
      dfId := some (dfId p type)
      owner := some (ownerOf s.reg (dfId p type)) }
  | _ => shortEntry k len type payload s

/-- `short_entry`'s effect on the registry and DIAG for kind `k` (R184): a declaration is registered unless it is deleted
and REGISTER_DELETED is false; a data record's failed lookup is noted. -/
def shortEffect (p : Params) (k : Kind) (type : Byte) (payload : List Byte) (s : State) : State :=
  match k with
  | .dfdecl =>
    match declOf payload with
    | some d => if !deletedFlag type || p.registerDeleted then registryAppend d s else s
    | none => s
  | .data => noteOwner (ownerOf s.reg (dfId p type)) s
  | _ => s

/-- SHORT after its bound checks. -/
def appendShort (p : Params) (k : Kind) (len type : Byte) (payload : List Byte) (s : State) : State :=
  { shortEffect p k type payload s with
    recs := s.recs ++ [shortEntryOf p k len type payload s]
    nShort := s.nShort + 1
    cur := BitVec.ofNat 25 (s.cur.toNat + 2 + len.toNat) }

/-- SHORT of kind `k`: the record is appended and CUR advances by L + 2. -/
def walkShort (p : Params) (k : Kind) (len type : Byte) (s : State) : Answer :=
  if frameFits (2 + len.toNat) s then
    orFault (imgBytes s (s.cur.toNat + 2) len.toNat) (fun payload => .next (appendShort p k len type payload s))
  else .next (walkTrunc s)

/-- What stands before every frame (R180): the walk is in W_RECORDS; at CUR = SIZE there is no frame and the walk ends. -/
def atFrame (k : State → Answer) (s : State) : Answer :=
  if s.wstate ≠ .wRecords then .fault .notWalking
  else if s.cur.toNat = s.size.toNat then .next (walkSizeMismatch s)
  else if s.size.toNat < s.cur.toNat then .fault .imageOutOfRange
  else k s

/-! The frame classes as instructions (R112, R180) -/

/-- END. -/
def execEndFrame (s : State) : Answer := atFrame (fun t => .next (walkEnd t)) s

/-- BAD lead. -/
def execBadFrame (lead : Byte) (s : State) : Answer := atFrame (fun t => .next (walkBad lead t)) s

/-- LONG lead, L. -/
def execLongFrame (lead : Byte) (len : BitVec 16) (s : State) : Answer := atFrame (walkLong lead len) s

/-- SHORT L, type, its kind by R172. -/
def execShortFrame (len type : Byte) (s : State) : Answer :=
  atFrame (walkShort Config.params (kindOf type len.toNat) len type) s

/-! WALK_STEP -/

/-- The frame at CUR, its bytes read one by one and each only after its bound check (R180). -/
def walkFrame (p : Params) (s : State) : Answer :=
  orFault (imgByte s s.cur.toNat) fun b0 =>
    if b0 = 0xFF#8 then .next (walkEnd s)
    else if frameFits 2 s then
      orFault (imgByte s (s.cur.toNat + 1)) fun b1 =>
        match classify b0 b1 with
        | .endF => .next (walkEnd s)
        | .bad => .next (walkBad b0 s)
        | .long =>
          if frameFits 4 s then
            orFault (imgByte s (s.cur.toNat + 2)) fun h =>
              orFault (imgByte s (s.cur.toNat + 3)) fun l => walkLong b0 (be16 h l) s
          else .next (walkTrunc s)
        | .short => walkShort p (kindOf b1 b0.toNat) b0 b1 s
    else .next (walkTrunc s)

/-- WALK_STEP (R180). -/
def execWalkStep (s : State) : Answer := atFrame (walkFrame Config.params) s

end Sys2Proof.Machine
end

