-- ==== Sys2Proof/Machine/Kinds.lean ====
section
/-! DEFINITION. The rows of the kind table R125 as instructions: the walk's effect of a SHORT frame with this row's type
code. The kind is the row's own; the frame's type byte is the type code with bit 7 the live flag (R117). -/

namespace Sys2Proof.Machine

/-- A SHORT frame of kind `k` at CUR. -/
def kindRow (k : Kind) (t : Byte) (live : Bool) (len : Byte) (s : State) : Answer :=
  atFrame (walkShort Config.params k len (typeByte t live)) s

/-- `t = 0xFF`: type 0x7F only, UNKNOWN. -/
def execKindUnknownFF (len : Byte) (s : State) : Answer := kindRow .unknown 0xFF false len s

/-- `t = 0x81`, `L ≥ 9`: DFDECL. -/
def execKindDfdecl (live : Bool) (len : Byte) (s : State) : Answer := kindRow .dfdecl 0x81 live len s

/-- `t = 0x81`, `L < 9`: UNKNOWN. -/
def execKindUnknownShortdecl (live : Bool) (len : Byte) (s : State) : Answer := kindRow .unknown 0x81 live len s

/-- `t = 0x82`: DIARY. -/
def execKindDiary (live : Bool) (len : Byte) (s : State) : Answer := kindRow .diary 0x82 live len s

/-- `t = 0x83`: OPL. -/
def execKindOpl (live : Bool) (len : Byte) (s : State) : Answer := kindRow .opl 0x83 live len s

/-- `t = 0x84`: COMMS. -/
def execKindComms (live : Bool) (len : Byte) (s : State) : Answer := kindRow .comms 0x84 live len s

/-- `t = 0x85`: SHEET. -/
def execKindSheet (live : Bool) (len : Byte) (s : State) : Answer := kindRow .sheet 0x85 live len s

/-- `t = 0x86`: PAGER. -/
def execKindPager (live : Bool) (len : Byte) (s : State) : Answer := kindRow .pager 0x86 live len s

/-- `t = 0x87`: NOTES. -/
def execKindNotes (live : Bool) (len : Byte) (s : State) : Answer := kindRow .notes 0x87 live len s

/-- `t = 0x80`: type 0x00 only, UNKNOWN. -/
def execKindUnknown80 (len : Byte) (s : State) : Answer := kindRow .unknown 0x80 false len s

/-- `t` in 0x88..0x8F: UNKNOWN. -/
def execKindUnknown88 (live : Bool) (low : BitVec 3) (len : Byte) (s : State) : Answer :=
  kindRow .unknown (0x11#5 ++ low) live len s

/-- `t` in 0x90..0x9F: DATA. -/
def execKindData90 (live : Bool) (low : BitVec 4) (len : Byte) (s : State) : Answer :=
  kindRow .data (0x9#4 ++ low) live len s

/-- `t` in 0xA0..0xBF: DATA. -/
def execKindDataA0 (live : Bool) (low : BitVec 5) (len : Byte) (s : State) : Answer :=
  kindRow .data (0x5#3 ++ low) live len s

/-- `t` in 0xC0..0xDF: DATA. -/
def execKindDataC0 (live : Bool) (low : BitVec 5) (len : Byte) (s : State) : Answer :=
  kindRow .data (0x6#3 ++ low) live len s

/-- `t` in 0xE0..0xFE: DATA. -/
def execKindDataE0 (live : Bool) (low : BitVec 5) (len : Byte) (s : State) : Answer :=
  kindRow .data (0x7#3 ++ low) live len s

end Sys2Proof.Machine
end

