-- ==== Sys2Proof/Machine/Pack.lean ====
section
/-! DEFINITION. Whole-container DECODE and ENCODE (spec/42_pack_codec.md). DECODE takes several steps (R12: a step performs
"one walk iteration"): its acceptance with the container checks (R197) is the meaning of the instruction, the header
(R198), each WALK_STEP (R199) and the result (R200) are steps of their own, with BUSY = 1 until STATUS is written. -/

namespace Sys2Proof.Machine

/-! DECODE -/

/-- The registers R197 clears, with SRC latched (R79). -/
def decodeInit (src : List Byte) (s : State) : State :=
  { s with
    src := Memory.ofBytes src
    recs := []
    reg := []
    nShort := 0
    nLong := 0
    nBad := 0
    endValid := false
    wstate := .wIdle }

/-- R197: the container checks in their order; a container that passes leaves the walk in W_HEADER. -/
def decodeBody (src : List Byte) (s : State) : Answer :=
  if src.take 3 ≠ magic then .next (raiseAbort .badMagic (decodeInit src s))
  else if src.length < 6 then .next (raiseAbort .truncated (decodeInit src s))
  else if src.length - 6 < (containerSize src).toNat ∨ (containerSize src).toNat < 10 then
    .next (raiseAbort .truncated { decodeInit src s with size := containerSize src })
  else .next { decodeInit src s with size := containerSize src, wstate := .wHeader }

/-- DECODE src (R196). -/
def execDecode (src : List Byte) (s : State) : Answer := hostCommand true true true (decodeBody src) s

/-- `diag(CSUM_MISMATCH)` on a MISMATCH (R149). -/
def noteChecksum (r : CheckResult) (s : State) : State :=
  match r with
  | .mismatch => setDiag diagCsumMismatch s
  | _ => s

/-- HDR latched (R198). -/
def latchHeader (h : List Byte) (s : State) : State := { s with hdr := h }

/-- The walk starts at 0x0A (R198). -/
def startWalk (s : State) : State := { s with cur := 0x0A, wstate := .wRecords }

/-- R198: the header is latched and parsed, a MISMATCH is noted, and the walk starts. -/
def decodeHeader (p : Params) (s : State) : Answer :=
  orFault (imgBytes s 0 10) fun h =>
    .next (startWalk
      (noteChecksum (parseHeader p h (latchHeader h s)).2.result (parseHeader p h (latchHeader h s)).1))

/-- The DecodedPack of R195, from the registers and the tail. -/
def decodedPack (p : Params) (endAddr : Option (BitVec 25)) (tail : List Byte) (s : State) : DecodedPack where
  hdr := s.hdr
  header := (parseHeader p s.hdr s).2
  size := s.size
  recs := s.recs
  registry := s.reg
  nShort := s.nShort
  nLong := s.nLong
  nBad := s.nBad
  terminal := s.wstate
  endAddr := endAddr
  tail := tail
  diag := s.diag.extractLsb' 0 4

/-- `end_addr`: END_ADDR when the walk ended in W_END, else none (R195). -/
def packEndAddr (s : State) : Except Fault (Option (BitVec 25)) :=
  if s.wstate = .wEnd then (readEndAddr s).map some else .ok none

/-- R200: the tail is read, the DecodedPack is formed, STATUS is OK. -/
def decodeResult (p : Params) (s : State) : Answer :=
  orFault (imgBytes s s.cur.toNat (s.size.toNat - s.cur.toNat)) fun tail =>
    orFault (packEndAddr s) fun e => .next (finish .ok (.decoded (decodedPack p e tail s)) s)

/-! ENCODE -/

/-- The sink is empty when ENCODE starts, and CFG is loaded (R63, R203). -/
def encodeInit (cfg : BitVec 40) (dst : Nat) (s : State) : State := setSink dst [] { s with cfg := cfg }

/-- R203 after the refusals: FRAME_INVALID, then the header patch, then SIZE_ERROR, then the container is written. -/
def encodeBody (pack : PackOperand) (cfg : BitVec 40) (dst : Nat) (s : State) : Answer :=
  match packBytes pack.recs with
  | none => .next (raiseAbort .frameInvalid (encodeInit cfg dst s))
  | some frames =>
    let u := (patchHeader pack.hdr cfg (encodeInit cfg dst s)).1
    let img := (patchHeader pack.hdr cfg (encodeInit cfg dst s)).2 ++ (frames ++ pack.tail)
    if 0xFFFFFF < img.length ∨ (cfgHwBound cfg = true ∧ Config.hwLimit < img.length) then
      .next (raiseAbort .sizeError u)
    else .next (finish .ok .none (appendSink dst (containerOf img) u))

/-- ENCODE P, cfg (R203). -/
def execEncode (pack : PackOperand) (cfg : BitVec 40) (dst : Nat) (s : State) : Answer :=
  hostCommand true (pack.hdr.length == 10) (cfgLegal cfg) (encodeBody pack cfg dst) s

end Sys2Proof.Machine
end

