-- ==== Sys2Proof/Machine/Session.lean ====
section
/-! DEFINITION. The session (spec/43_transfer.md, R230 to R237): SESSION_OPEN, SESSION_CLOSE, START_WRITE, START_READ, the
line recogniser LINE_STEP and the three control lines. -/

namespace Sys2Proof.Machine

/-! Host commands -/

/-- SESSION_OPEN after its refusals (R230). -/
def sessionOpenBody (src dst : Nat) (cfg : BitVec 40) (s : State) : Answer :=
  if s.chErr then .next (finish .channelError .none s)
  else .next (finish .ok .none
    { s with
      srcBind := some src
      dstBind := some dst
      scfg := cfg
      chOpen := true
      linebuf := []
      lineOvf := false
      xstate := .xIdle })

/-- SESSION_OPEN src, dst, cfg: legal only in X_CLOSED (R230). -/
def execSessionOpen (src dst : Nat) (cfg : BitVec 40) (s : State) : Answer :=
  hostCommand (s.xstate == .xClosed) true (cfgLegal cfg) (sessionOpenBody src dst cfg) s

/-- SESSION_CLOSE: legal only in X_IDLE (R236). -/
def execSessionClose (s : State) : Answer :=
  hostCommand (s.xstate == .xIdle) true true (fun t => .next (sessionEnd .ok t)) s

/-- START_WRITE cfg: legal only in X_IDLE; SCFG is loaded and the write operation starts (R238). -/
def execStartWrite (cfg : BitVec 40) (s : State) : Answer :=
  hostCommand (s.xstate == .xIdle) true (cfgLegal cfg) (fun t => .next (writeOperation { t with scfg := cfg })) s

/-- START_READ cfg: legal only in X_IDLE; SCFG is loaded and the read operation starts (R248). -/
def execStartRead (cfg : BitVec 40) (s : State) : Answer :=
  hostCommand (s.xstate == .xIdle) true (cfgLegal cfg) (fun t => .next (readOperation { t with scfg := cfg })) s

/-! Control lines (R231, R233) -/

/-- The recogniser runs: X_IDLE with BUSY = 0 (R232). -/
def recognising (s : State) : Bool := s.xstate == .xIdle && !s.busy

/-- A control line has its effect only while the recogniser runs; elsewhere its bytes are no line (R231). -/
def controlLine (effect : State → State) (s : State) : Answer := .next (if recognising s then effect s else s)

/-- "XXWrite": the write operation starts with the current SCFG. -/
def execLineXXWrite (s : State) : Answer := controlLine writeOperation s

/-- "XXRead": the read operation starts with the current SCFG. -/
def execLineXXRead (s : State) : Answer := controlLine readOperation s

/-- "XXExit": the session ends with STATUS OK. -/
def execLineXXExit (s : State) : Answer := controlLine (sessionEnd .ok) s

/-- `dispatch(line)` (R233): a line that is no row of R126 is discarded (R133). -/
def dispatchLine (line : List Byte) (s : State) : State :=
  match decodeLine line with
  | .ok .lineXXWrite => writeOperation s
  | .ok .lineXXRead => readOperation s
  | .ok .lineXXExit => sessionEnd .ok s
  | _ => s

/-! LINE_STEP (R232) -/

/-- One CR just before the LF is removed. -/
def stripCr (line : List Byte) : List Byte := if line.getLast? = some 0x0D#8 then line.dropLast else line

/-- The line buffer emptied. -/
def clearLine (s : State) : State := { s with linebuf := [], lineOvf := false }

/-- A byte that is not LF joins the line, or overflows it. -/
def lineAppend (p : Params) (b : Byte) (s : State) : State :=
  if s.linebuf.length < lineMax p then { s with linebuf := s.linebuf ++ [b] } else { s with lineOvf := true }

/-- The byte taken by the recogniser. -/
def lineByte (p : Params) (b : Byte) (s : State) : State :=
  if b = 0x0A#8 then
    (if s.lineOvf then clearLine s else dispatchLine (stripCr s.linebuf) (clearLine s))
  else lineAppend p b s

/-- One step of the recogniser: a transport error ends the session, else the first byte of RXQ is taken, else it waits.
The host command of R232's list is taken by the engine from HCMD (Fetch.lean). -/
def recogniserStep (p : Params) (s : State) : Answer :=
  if s.chErr then .next (sessionEnd .channelError s)
  else match s.rxq with
    | b :: rest => .next (lineByte p b { s with rxq := rest })
    | [] => .next s

/-- LINE_STEP: performed only in X_IDLE with BUSY = 0 (R232). -/
def execLineStep (s : State) : Answer :=
  if recognising s then recogniserStep Config.params s else .fault .notRecognising

end Sys2Proof.Machine
end

