-- ==== Sys2Proof/Machine/Dispatch.lean ====
section
/-! DEFINITION. The dispatch of every instruction to its meaning. -/

namespace Sys2Proof.Machine

def exec (i : Instr) (s : State) : Host.Outcome State Fault Refusal :=
  match i with
  -- host commands
  | .decode src => Sys2Proof.Machine.execDecode src s
  | .encode pack cfg dst => Sys2Proof.Machine.execEncode pack cfg dst s
  | .frameEnc d dst => Sys2Proof.Machine.execFrameEnc d dst s
  | .frameClassify bytes => Sys2Proof.Machine.execFrameClassify bytes s
  | .hdrParse h => Sys2Proof.Machine.execHdrParse h s
  | .csum h => Sys2Proof.Machine.execCsum h s
  | .csumCheck h => Sys2Proof.Machine.execCsumCheck h s
  | .hdrPatch h cfg => Sys2Proof.Machine.execHdrPatch h cfg s
  | .startWrite cfg => Sys2Proof.Machine.execStartWrite cfg s
  | .startRead cfg => Sys2Proof.Machine.execStartRead cfg s
  | .sessionOpen src dst cfg => Sys2Proof.Machine.execSessionOpen src dst cfg s
  | .sessionClose => Sys2Proof.Machine.execSessionClose s
  -- frame classes
  | .endFrame => Sys2Proof.Machine.execEndFrame s
  | .badFrame lead => Sys2Proof.Machine.execBadFrame lead s
  | .longFrame lead len => Sys2Proof.Machine.execLongFrame lead len s
  | .shortFrame len type => Sys2Proof.Machine.execShortFrame len type s
  -- kinds of SHORT frames
  | .kindUnknownFF len => Sys2Proof.Machine.execKindUnknownFF len s
  | .kindDfdecl live len => Sys2Proof.Machine.execKindDfdecl live len s
  | .kindUnknownShortdecl live len => Sys2Proof.Machine.execKindUnknownShortdecl live len s
  | .kindDiary live len => Sys2Proof.Machine.execKindDiary live len s
  | .kindOpl live len => Sys2Proof.Machine.execKindOpl live len s
  | .kindComms live len => Sys2Proof.Machine.execKindComms live len s
  | .kindSheet live len => Sys2Proof.Machine.execKindSheet live len s
  | .kindPager live len => Sys2Proof.Machine.execKindPager live len s
  | .kindNotes live len => Sys2Proof.Machine.execKindNotes live len s
  | .kindUnknown80 len => Sys2Proof.Machine.execKindUnknown80 len s
  | .kindUnknown88 live low len => Sys2Proof.Machine.execKindUnknown88 live low len s
  | .kindData90 live low len => Sys2Proof.Machine.execKindData90 live low len s
  | .kindDataA0 live low len => Sys2Proof.Machine.execKindDataA0 live low len s
  | .kindDataC0 live low len => Sys2Proof.Machine.execKindDataC0 live low len s
  | .kindDataE0 live low len => Sys2Proof.Machine.execKindDataE0 live low len s
  -- micro-operations
  | .csaClr => Sys2Proof.Machine.execCsaClr s
  | .csaAddHi b => Sys2Proof.Machine.execCsaAddHi b s
  | .csaAddLo b => Sys2Proof.Machine.execCsaAddLo b s
  | .csaCmp w => Sys2Proof.Machine.execCsaCmp w s
  | .walkStep => Sys2Proof.Machine.execWalkStep s
  | .lineStep => Sys2Proof.Machine.execLineStep s
  -- control lines
  | .lineXXWrite => Sys2Proof.Machine.execLineXXWrite s
  | .lineXXRead => Sys2Proof.Machine.execLineXXRead s
  | .lineXXExit => Sys2Proof.Machine.execLineXXExit s

end Sys2Proof.Machine
end

