-- ==== Sys2Proof/Machine/Fetch.lean ====
section
/-! DEFINITION. Which instruction OPKFE performs next, and the placing of an opcode-table word where the next step takes
it. OPKFE has no program counter (R24): its instructions come from HCMD, from the image at CUR (inside WALK_STEP) and from
the line buffer (inside LINE_STEP). -/

namespace Sys2Proof.Machine

/-- What OPKFE does on its turn. -/
inductive Action where
  /-- It performs this instruction, in this state. -/
  | perform (i : Instr) (s : State)
  /-- It refuses a command whose opcode is unassigned (R130). -/
  | unassigned (s : State)
  /-- It takes an internal step of the transfer engine. -/
  | transfer
  /-- It forms the header of the DECODE that runs (R198). -/
  | header
  /-- It forms the result of the DECODE that runs (R200). -/
  | result
  /-- It waits for an event. -/
  | wait
  /-- No rule leads to this state. -/
  | stuck
  deriving DecidableEq, Repr

/-- The command at the head of HCMD (R264: taken when BUSY = 0), or a wait. -/
def nextCommand (s : State) : Action :=
  match s.hcmd with
  | [] => .wait
  | c :: rest =>
    match decode (.host c) with
    | .ok i => .perform i { s with hcmd := rest }
    | .error _ => .unassigned { s with hcmd := rest }

/-- The next action of the DECODE that runs, by WSTATE (R197 to R200). -/
def nextDecode (s : State) : Action :=
  match s.wstate with
  | .wIdle => .stuck
  | .wHeader => .header
  | .wRecords => .perform .walkStep s
  | .wEnd => .result
  | .wSize => .result
  | .wTrunc => .result

/-- The recogniser has an event: a transport error or a byte, which come before a host command (R262). -/
def lineEvent (s : State) : Bool := s.chErr || !s.rxq.isEmpty

/-- The next action of OPKFE. -/
def nextAction (s : State) : Action :=
  if s.xstate.inOperation then .transfer
  else if s.busy then nextDecode s
  else if recognising s && lineEvent s then .perform .lineStep s
  else nextCommand s

/-! Placing a table word -/

/-- The machine between operations: no schedule, no wait, nothing busy. -/
def betweenOperations (s : State) : State :=
  { s with
    sched := []
    timer := false
    busy := false
    xstate := if s.xstate.inOperation then .xIdle else s.xstate }

/-- A host command at the head of HCMD, with no event before it. -/
def placeCommand (c : HostCmd) (s : State) : State :=
  { betweenOperations s with hcmd := [c], rxq := [], chErr := false }

/-- The image a placed frame stands in: ten header bytes 0x00, the frame's bytes at 0x0A, and zeros. -/
def placedImage (bytes : List Byte) : List Byte := List.replicate 10 0 ++ bytes ++ List.replicate 256 0

/-- A DECODE that is about to take the frame with these first bytes, at image address 0x0A. -/
def placeFrame (bytes : List Byte) (s : State) : State :=
  { betweenOperations s with
    busy := true
    wstate := .wRecords
    src := Memory.ofBytes (containerOf (placedImage bytes))
    size := BitVec.ofNat 24 (placedImage bytes).length
    cur := 0x0A }

/-- An open session whose recogniser has this line in LINEBUF and is about to take its LF. -/
def placeLine (bytes : List Byte) (s : State) : State :=
  { betweenOperations s with
    xstate := .xIdle
    chOpen := true
    srcBind := some (s.srcBind.getD 0)
    dstBind := some (s.dstBind.getD 0)
    chErr := false
    linebuf := bytes
    lineOvf := false
    rxq := [0x0A] }

/-- A code placed where the next step takes it; the micro-operations have no binary encoding. -/
def placeCode (c : Code) (s : State) : State :=
  match c with
  | .host cmd => placeCommand cmd s
  | .frame bytes => placeFrame bytes s
  | .kind t live len => placeFrame [len, typeByte t live, 0, 0] s
  | .line bytes => placeLine bytes s
  | .micro _ => s

/-- A word of the opcode table placed so. -/
def placeWord (nbits w : Nat) (s : State) : State :=
  match tableCode nbits w with
  | some c => placeCode c s
  | none => s

end Sys2Proof.Machine
end

