-- ==== Sys2Proof/Machine/Transfer.lean ====
section
/-! DEFINITION. The internal steps of the transfer engine's two operations (spec/43_transfer.md, R238 to R256): one action
a step (R12), selected by XSTATE. -/

namespace Sys2Proof.Machine

/-! Write operation -/

/-- The check passes: TSIZE is latched and the drain starts with the bytes RXQ holds at this instant (R238, R239). -/
def startDrain (size : BitVec 24) (s : State) : State :=
  { s with tsize := size, xstate := .wrDrain, drainLeft := s.rxq.length }

/-- The check's outcome for a source's bytes: NOT_AN_OPK_FILE, PACK_TOO_LARGE, TRUNCATED, in this order (R238, R276). -/
def checkSource (src : List Byte) (s : State) : State :=
  if src.length < 6 ∨ src.take 3 ≠ magic then raiseAbort .notAnOpkFile s
  else if Config.hwLimit < (containerSize src).toNat then raiseAbort .packTooLarge s
  else if src.length - 6 < (containerSize src).toNat then raiseAbort .truncated s
  else startDrain (containerSize src) s

/-- WR_CHECK (R238), its reads and checks in one step (log entry 41). -/
def writeCheck (s : State) : Answer := orFault (boundSource s) fun m => .next (checkSource (Memory.bytes m) s)

/-- WR_DRAIN: one stale byte is discarded; after the last one the token is next (R239). A transport error is taken with a
byte left to discard; with none left it waits for the token's first Tx (log entry 45). -/
def drainStep (s : State) : Answer :=
  match s.drainLeft with
  | 0 => .next { s with xstate := .wrToken, tidx := 0 }
  | n + 1 =>
    if s.chErr then .next (raiseAbort .channelError s)
    else match s.rxq with
      | [] => .fault .drainUnderrun
      | _ :: rest => .next { s with rxq := rest, drainLeft := n }

/-- After token byte TIDX: the next one, or the size bytes (R240). -/
def tokenNext (p : Params) (s : State) : State :=
  if s.tidx.toNat + 1 < (writeToken p).length then { s with tidx := s.tidx + 1 }
  else { s with xstate := .wrSize, tidx := 0 }

/-- WR_TOKEN: `Tx(WRITE_TOKEN[TIDX])` (R240). -/
def tokenStep (p : Params) (s : State) : Answer :=
  transmit ((writeToken p).getD s.tidx.toNat 0) (fun t => .next (tokenNext p t)) s

/-- The head of the payload loop: the next byte, or the normal exit (R241). -/
def writeLoop (s : State) : State :=
  if s.addr.toNat < s.tsize.toNat then { s with xstate := .wrSend } else operationExit s

/-- WR_SIZE: `Tx(hi8(TSIZE))`, then `Tx(lo8(TSIZE))`, after which CSA is cleared and the payload loop starts (R240, R241).
TIDX stays 1 after the second (log entry 42). -/
def sizeStep (s : State) : Answer :=
  if s.tidx = 0 then transmit (s.tsize.extractLsb' 8 8) (fun t => .next { t with tidx := 1 }) s
  else transmit (s.tsize.extractLsb' 0 8) (fun t => .next (writeLoop (csaClear t))) s

/-- `wbyte(a)` from the source byte `b` at image address `a` (R242). -/
def patchedByte (a : Nat) (b : Byte) (s : State) : Byte :=
  if a = 0 then patchId b s.scfg
  else if a = 1 then patchSizeCode b s.scfg
  else if a = 8 ∧ cfgRecompute s.scfg = true then hi8 s.csa
  else if a = 9 ∧ cfgRecompute s.scfg = true then lo8 s.csa
  else b

/-- Bytes 0..7 as sent are fed to the checksum unit (R241, R147). -/
def feedSent (a : Nat) (v : Byte) (s : State) : State := if a < 8 then csaFeed a v s else s

/-- The byte `v` for address `a` is fed, becomes LAST_TX and is sent; its echo is next (R241). -/
def sendByte (a : Nat) (v : Byte) (s : State) : Answer :=
  transmit v (fun t => .next { t with xstate := .wrEcho }) { feedSent a v s with lastTx := v }

/-- WR_SEND (R241, R242), the read and the Tx in one step (log entry 41). -/
def sendStep (s : State) : Answer :=
  orFault (boundSource s) fun m =>
    orFault (srcByte m (6 + s.addr.toNat)) fun b => sendByte s.addr.toNat (patchedByte s.addr.toNat b s) s

/-- The echo `e` against LAST_TX: a difference aborts, else ADDR advances by 1 and the loop goes on (R243, R241). -/
def compareEcho (e : Byte) (s : State) : Answer :=
  orFault (readLastTx s) fun v =>
    if e = v then .next (writeLoop { s with addr := s.addr + 1 }) else .next (raiseAbort .verifyFailed s)

/-- WR_ECHO (R243). -/
def echoStep (s : State) : Answer := awaitByte compareEcho s

/-! Read operation -/

/-- The container prefix: the magic and a zero size (R248). -/
def readPrefix : List Byte := [0x4F, 0x50, 0x4B, 0x00, 0x00, 0x00]

/-- RD_INIT: the sink is emptied and the prefix appended (R248), in one step (log entry 41). -/
def readInit (s : State) : Answer :=
  orFault (boundSink s) fun r =>
    .next { appendSink r readPrefix (setSink r [] s) with xstate := .rdSize, tidx := 0, rdSizeBytes := [] }

/-- A size byte is taken; after the third one TSIZE is the declared length (R249). TIDX stays 2 then (log entry
42). -/
def takeSizeByte (b : Byte) (s : State) : Answer :=
  match s.rdSizeBytes with
  | r0 :: r1 :: _ => .next { s with rdSizeBytes := [r0, r1, b], tsize := be24 r0 r1 b, xstate := .rdWait }
  | rs => .next { s with rdSizeBytes := rs ++ [b], tidx := s.tidx + 1 }

/-- RD_SIZE (R249). -/
def readSizeStep (s : State) : Answer := awaitByte takeSizeByte s

/-- `stop_before(ADDR)`: the fixed-size limit, or the bound of sentinel mode (R253, R254). -/
def stopBefore (p : Params) (s : State) : Bool :=
  if cfgTermMode s.scfg then p.sentinelBounded && decide (s.tsize.toNat ≤ s.addr.toNat)
  else decide (min (cfgTargetLen s.scfg).toNat s.tsize.toNat ≤ s.addr.toNat)

/-- The ADDR ceiling of sentinel mode (R254). -/
def atCeiling (s : State) : Bool := cfgTermMode s.scfg && s.addr == 0xFFFFFF#24

/-- `advance(q)` (R252). -/
def readAdvance (q : Byte) (s : State) : State :=
  { s with
    addr := s.addr + 1
    ffrun := if q = 0xFF#8 then (if s.ffrun.toNat < 255 then s.ffrun + 1 else s.ffrun) else 0 }

/-- `stop_after()` with its retraction: in sentinel mode a run of NUM_FF_CHK ends the capture (R254). -/
def stopAfter (p : Params) (s : State) : State :=
  if cfgTermMode s.scfg = true ∧ s.ffrun = numFfChk p then
    { s with addr := s.addr - (numFfChk p - 1).zeroExtend 24, xstate := .rdFinish }
  else s

/-- A payload byte sent back is appended and counted (R251). -/
def storePayload (p : Params) (q : Byte) (r : Nat) (s : State) : State :=
  stopAfter p (readAdvance q (appendSink r [q] { s with rdPending := none }))

/-- A transport error at the echo's Tx: the operation aborts, and DST keeps the byte already taken (R272, decision D35; log
entry 11). -/
def abortKeeping (q : Byte) (r : Nat) (s : State) : State :=
  raiseAbort .channelError (appendSink r [q] { s with rdPending := none })

/-- The byte taken is echoed, then appended and counted (R251). -/
def echoPayload (p : Params) (q : Byte) (s : State) : Answer :=
  orFault (boundSink s) fun r =>
    if s.chErr then .next (abortKeeping q r s) else transmit q (fun t => .next (storePayload p q r t)) s

/-- RD_WAIT (R251): a byte taken is echoed and appended; else the stop tests, then the wait. -/
def readWaitStep (p : Params) (s : State) : Answer :=
  match s.rdPending with
  | some q => echoPayload p q s
  | none =>
    if stopBefore p s then .next { s with xstate := .rdFinish }
    else if atCeiling s then .next (raiseAbort .packTooLarge s)
    else awaitByte (fun q t => .next { t with rdPending := some q }) s

/-- The size field patched and, where TRUNCATE_ON_RETRACT is true, the surplus removed (R256). -/
def patchSizeField (p : Params) (addr : BitVec 24) (m : Memory) : Option Memory :=
  match Memory.writeAll m 3 (bytes24 addr) with
  | none => none
  | some m' => if p.truncateOnRetract then Memory.truncate m' (6 + addr.toNat) else some m'

/-- RD_FINISH (R256), the overwrites, the truncation and the exit in one step (log entry 41). -/
def readFinish (p : Params) (s : State) : Answer :=
  orFault (boundSink s) fun r =>
    match patchSizeField p s.addr (sinkOf s r) with
    | none => .fault .dstOutOfRange
    | some m => .next (operationExit (setSink r m s))

/-! The step of the operation that runs -/

/-- One action of the transfer engine, by XSTATE; in X_CLOSED and X_IDLE no operation runs. -/
def transferStep (p : Params) (s : State) : Answer :=
  match s.xstate with
  | .xClosed => .next s
  | .xIdle => .next s
  | .wrCheck => writeCheck s
  | .wrDrain => drainStep s
  | .wrToken => tokenStep p s
  | .wrSize => sizeStep s
  | .wrSend => sendStep s
  | .wrEcho => echoStep s
  | .rdInit => readInit s
  | .rdSize => readSizeStep s
  | .rdWait => readWaitStep p s
  | .rdFinish => readFinish p s

end Sys2Proof.Machine
end

