-- ==== Sys2Proof/Machine/Engine.lean ====
section
/-! DEFINITION. One turn of OPKFE, and one event of another agent (R262 to R264). -/

namespace Sys2Proof.Machine

/-- OPKFE's turn: it performs its next action. -/
def engineTurn (s : State) : Answer :=
  match nextAction s with
  | .perform i t => exec i t
  | .unassigned t => .next (refuse .badCommand t)
  | .transfer => transferStep Config.params s
  | .header => decodeHeader Config.params s
  | .result => decodeResult Config.params s
  | .wait => .next s
  | .stuck => .fault .sequencing

/-- OPKFE waits: at an await that armed the timer, in X_IDLE with no event, or with no session and no command. -/
def waiting (s : State) : Bool :=
  s.timer || (!s.busy && s.hcmd.isEmpty && (s.xstate == .xClosed || (s.xstate == .xIdle && !lineEvent s)))

/-- An event happened that turns `s` into `t`: if OPKFE was waiting it takes the event at once (R262 (3)), else the event
is held (R263). -/
def wake (s t : State) : Answer := if waiting s then engineTurn t else .next t

/-- The timer's expiry is taken only by a wait that armed it, and a queued byte or a transport error comes first (R262). -/
def timerEvent (s : State) : Answer :=
  if s.timer && !lineEvent s then .next (raiseAbort .timeout s) else .next s

/-- A host that changes a bound buffer while the operation runs breaks its duty (entry I21). -/
def hostFill (bound : Option Nat) (n : Nat) (t s : State) : Answer :=
  if s.xstate.inOperation && bound == some n then .fault .hostDuty else .next t

/-- An event of another agent. CH_ERR is a level: the transport may drop it at any turn, also before OPKFE has taken the
error, which is then lost (R264; log entry 44). -/
def envTurn (e : EnvEvent) (s : State) : Answer :=
  match e with
  | .hostCommand c => if s.busy then .next (refuseBusy s) else wake s { s with hcmd := s.hcmd ++ [c] }
  | .rxByte b => wake s { s with rxq := s.rxq ++ [b] }
  | .txTaken => .next { s with txq := s.txq.drop 1 }
  | .chErrLevel level => wake s { s with chErr := level }
  | .timerExpires => timerEvent s
  | .fillSource n bytes => hostFill s.srcBind n { s with sources := Store.set s.sources n (Memory.ofBytes bytes) } s
  | .fillSink n bytes => hostFill s.dstBind n { s with sinks := Store.set s.sinks n (Memory.ofBytes bytes) } s

/-- The agent the schedule names moves; with no schedule OPKFE does. -/
def turn (s : State) : Answer :=
  match s.sched with
  | [] => engineTurn s
  | .opkfe :: rest => engineTurn { s with sched := rest }
  | .env e :: rest => envTurn e { s with sched := rest }

end Sys2Proof.Machine
end

