-- ==== Sys2Proof/Machine/Step.lean ====
section
/-! DEFINITION. The step of the machine, and the placing of an opcode-table word where the next step takes it. -/

namespace Sys2Proof.Machine

/-- One step: one event of another agent, or one action of OPKFE (R12). -/
def step (s : State) : Host.Outcome State Fault Refusal := turn s

/-- The state whose very next step takes the opcode-table word `w` (log entry 9). -/
def State.withFetchWord (s : State) (nbits w : Nat) : State := placeWord nbits w s

end Sys2Proof.Machine
end

