-- ==== Sys2Proof/Safety.lean ====
section
/-! DEFINITION. The terms in which claims are stated: runs of the machine, a peer that keeps the protocol (R284), and the
invariant that every step keeps. -/

namespace Sys2Proof.Machine

/-! Runs -/

/-- Steps until BUSY falls, at most `n` of them: one command or transfer operation to its end (R31). -/
def runBusy : Nat → State → Answer
  | 0, s => .next s
  | n + 1, s =>
    if s.busy then
      match step s with
      | .next t => runBusy n t
      | .fault f => .fault f
      | .refused r => .refused r
    else .next s

/-- A peer that keeps the protocol of a write: where OPKFE waits for an echo it has sent the byte back (R128, R284). -/
def echoPeer (s : State) : State :=
  if s.xstate = .wrEcho ∧ s.rxq = [] then { s with rxq := [s.lastTx] } else s

/-- `runBusy` with that peer. -/
def runEcho : Nat → State → Answer
  | 0, s => .next s
  | n + 1, s =>
    if s.busy then
      match step (echoPeer s) with
      | .next t => runEcho n t
      | .fault f => .fault f
      | .refused r => .refused r
    else .next s

/-- DECODE of `src` issued in `s` with no other agent moving completes with STATUS OK and this DecodedPack (R196). -/
def decodesTo (s : State) (src : List Byte) (pack : DecodedPack) : Prop :=
  ∃ s1 n t, exec (.decode src) s = .next s1 ∧ runBusy n s1 = .next t ∧ t.busy = false ∧ t.status = statusCode .ok ∧
    t.hrsp.result = .decoded pack

/-- OPKFE is between commands, no operation runs, and no other agent is scheduled. -/
def ready (s : State) : Bool := !s.busy && !s.xstate.inOperation && s.sched.isEmpty

/-- `s` after a host command that ended with this STATUS code and result and changed nothing else (R30, R31, R107). -/
def answered (s : State) (code : Byte) (result : Result) : State :=
  { s with status := code, diag := 0, busy := false, hrsp := { status := code, diag := 0, result := result } }

/-- A CFG with no patch (R155): PACK_TYPE, SET_PAGED, SET_WP, SZ_OVR_EN and RECOMPUTE are 0. -/
def identityCfg (cfg : BitVec 40) : Bool :=
  cfgPackType cfg == 0#2 && !cfgSetPaged cfg && !cfgSetWp cfg && !cfgSzOvrEn cfg && !cfgRecompute cfg

/-- The container's checks of R197 pass: magic, a size field, 10 or more image bytes, all of them there. -/
def acceptable (src : List Byte) : Bool :=
  src.take 3 == [0x4F#8, 0x50#8, 0x4B#8] && decide (6 ≤ src.length) && decide (10 ≤ (containerSize src).toNat) &&
    decide (6 + (containerSize src).toNat ≤ src.length)

/-- The image bytes a write sends for an image under a CFG (R242): the header patched where it exists (decision D27). -/
def sentImage (img : List Byte) (cfg : BitVec 40) (s : State) : List Byte :=
  ((patchHeader ((img ++ List.replicate 10 0).take 10) cfg s).2 ++ img.drop 10).take img.length

/-- The number of 0xFF bytes at the end of a byte string. -/
def ffTail (bytes : List Byte) : Nat := (bytes.reverse.takeWhile (fun b => b == 0xFF#8)).length

/-- The commands of R107. -/
def isHostCommand : Instr → Bool
  | .decode _ | .encode _ _ _ | .frameEnc _ _ | .frameClassify _ | .hdrParse _ | .csum _ | .csumCheck _ | .hdrPatch _ _
  | .startWrite _ | .startRead _ | .sessionOpen _ _ _ | .sessionClose => true
  | _ => false

/-- The codec commands: opcodes 0x01 to 0x08 (R237). -/
def isCodecCommand : Instr → Bool
  | .decode _ | .encode _ _ _ | .frameEnc _ _ | .frameClassify _ | .hdrParse _ | .csum _ | .csumCheck _ | .hdrPatch _ _ => true
  | _ => false

/-- The host keeps its duty (R62, R63, entry I21): no event at hand changes a buffer bound to a running operation. -/
def hostKeepsDuty (s : State) : Bool :=
  match s.sched with
  | .env (.fillSource n _) :: _ => !(s.xstate.inOperation && s.srcBind == some n)
  | .env (.fillSink n _) :: _ => !(s.xstate.inOperation && s.dstBind == some n)
  | _ => true

/-! The parts of the invariant -/

/-- The codes that can stand in STATUS: 0x03, 0x04 and 0x05 are never a STATUS (R260). -/
def statusWritable : Status → Bool
  | .sizeMismatch => false
  | .checksumMismatch => false
  | .idNotFound => false
  | _ => true

/-- The states of the write operation. -/
def XState.inWrite : XState → Bool
  | .wrCheck | .wrDrain | .wrToken | .wrSize | .wrSend | .wrEcho => true
  | _ => false

/-- The states of the read operation. -/
def XState.inRead : XState → Bool
  | .rdInit | .rdSize | .rdWait | .rdFinish => true
  | _ => false

/-- The walk has started: W_RECORDS or a terminal state. -/
def WState.walked : WState → Bool
  | .wIdle | .wHeader => false
  | _ => true

/-- `frame_size` of a record entry (R175). -/
def recordSize (e : RecEntry) : Nat :=
  match e.cls with
  | .bad => 2
  | .long => e.len.toNat + 4
  | .short => e.len.toNat + 2

/-- R181: the frames of a record list are contiguous from address `a` to address `c`. -/
def framesFrom : Nat → List RecEntry → Nat → Bool
  | a, [], c => a == c
  | a, e :: es, c => e.addr.toNat == a && framesFrom (a + recordSize e) es c

/-- The number of entries of a class, as the counters hold it (R28). -/
def countOf (cls : RecClass) (recs : List RecEntry) : BitVec 24 :=
  BitVec.ofNat 24 (recs.filter (fun e => e.cls == cls)).length

/-- The fields of an entry agree with its class (R35, R114 to R118). -/
def recordWf (e : RecEntry) : Bool :=
  e.payload.length == e.len.toNat && e.b0 != 0xFF#8 &&
    match e.cls with
    | .bad => e.b1 == 0xFF#8 && e.len == 0#16 && e.deleted == none && e.kind == none
    | .long => e.b1 == 0x80#8 && e.deleted == none && e.kind == none
    | .short =>
      e.b1 != 0xFF#8 && e.b1 != 0x80#8 && e.len == e.b0.zeroExtend 16 && e.deleted == some (deletedFlag e.b1) &&
        e.kind == some (kindOf e.b1 e.b0.toNat) && (e.decl.isSome == (e.kind == some .dfdecl)) &&
        (e.dfId.isSome == (e.kind == some .data)) && (e.owner.isSome == (e.kind == some .data))

/-- What the state of every reachable machine satisfies, and every step keeps. -/
structure Inv (p : Params) (s : State) : Prop where
  /-- Memories are in canonical form (R62, R63). -/
  srcWf : Memory.wf s.src = true
  sourcesWf : Store.wf s.sources = true
  sinksWf : Store.wf s.sinks = true
  /-- HDR has ten bytes (R29). -/
  hdrTen : s.hdr.length = 10
  /-- DIAG[7:4] reads as 0 (R30). -/
  diagReserved : s.diag.extractLsb' 4 4 = 0#4
  /-- STATUS holds a code that can be a STATUS (R260). -/
  statusWritten : ∃ c, statusWritable c = true ∧ s.status = statusCode c
  /-- PACK_TYPE = 3 never enters CFG or SCFG (R33, R49). -/
  cfgOk : cfgLegal s.cfg = true
  scfgOk : cfgLegal s.scfg = true
  /-- OPEN is 1 from SESSION_OPEN to the end of the session, and the buffers are bound then (R66, R230, R236). -/
  openSession : s.chOpen = (s.xstate != .xClosed)
  srcBound : s.srcBind.isSome = (s.xstate != .xClosed)
  dstBound : s.dstBind.isSome = (s.xstate != .xClosed)
  /-- BUSY is 1 throughout an operation (R235). -/
  operationBusy : s.xstate.inOperation = true → s.busy = true
  /-- OPKIND names the operation that runs (R44). -/
  writeKind : s.xstate.inWrite = true → s.opkind = .write
  readKind : s.xstate.inRead = true → s.opkind = .read
  /-- LINEBUF holds at most LINE_MAX bytes and is empty outside X_IDLE (R43). -/
  lineBound : s.linebuf.length ≤ lineMax p
  lineIdle : s.xstate ≠ .xIdle → s.linebuf = [] ∧ s.lineOvf = false
  /-- The timer is armed only at an await that lists Tmo and has nothing to take (R262, R280). -/
  timerWaits : s.timer = true →
    s.rxq = [] ∧ s.chErr = false ∧ (s.xstate = .wrEcho ∨ s.xstate = .rdSize ∨ s.xstate = .rdWait ∧ s.rdPending = none)
  /-- A walk that has not ended belongs to a DECODE that runs; BUSY outside an operation is a DECODE (R31, R199). -/
  walkBusy : s.wstate = .wHeader ∨ s.wstate = .wRecords → s.busy = true ∧ s.xstate.inOperation = false
  decodeRuns : s.busy = true → s.xstate.inOperation = false → s.wstate ≠ .wIdle
  /-- An accepted container holds 6 + SIZE bytes and SIZE is 10 or more (R197). -/
  container : s.wstate ≠ .wIdle → 10 ≤ s.size.toNat ∧ 6 + s.size.toNat ≤ s.src.length
  /-- END_VALID is 1 in W_END only (R32). -/
  endOnly : s.endValid = (s.wstate == .wEnd)
  /-- R181. -/
  walkHead : s.wstate.walked = false → s.recs = [] ∧ s.reg = []
  walkBounds : s.wstate.walked = true → 10 ≤ s.cur.toNat ∧ s.cur.toNat ≤ s.size.toNat
  contiguous : s.wstate.walked = true → framesFrom 10 s.recs s.cur.toNat = true
  /-- What each terminal leaves (R183). -/
  terminalEnd : s.wstate = .wEnd → s.endAddr = s.cur ∧ s.cur.toNat < s.size.toNat
  terminalSize : s.wstate = .wSize → s.cur.toNat = s.size.toNat
  terminalTrunc : s.wstate = .wTrunc → s.cur.toNat < s.size.toNat
  /-- The counters count RECS (R28). -/
  countShort : s.nShort = countOf .short s.recs
  countLong : s.nLong = countOf .long s.recs
  countBad : s.nBad = countOf .bad s.recs
  /-- Entries of RECS and REG are formed as R35 and R34 say. -/
  recordsWf : ∀ e ∈ s.recs, recordWf e = true
  registryWf : ∀ e ∈ s.reg, e.name.length = 8 ∧ 10 ≤ e.declAddr.toNat ∧ e.declAddr.toNat < s.cur.toNat
  /-- A write past its check has at most 0xFFFF bytes, all of them in the source (R238). -/
  writeChecked : s.xstate.inWrite = true → s.xstate ≠ .wrCheck →
    s.tsize.toNat ≤ 0xFFFF ∧ ∃ r, s.srcBind = some r ∧ 6 + s.tsize.toNat ≤ (Store.get s.sources r).length
  writeAddr : s.xstate = .wrSend ∨ s.xstate = .wrEcho → s.addr.toNat < s.tsize.toNat
  writeStart : s.xstate = .wrCheck ∨ s.xstate = .wrDrain ∨ s.xstate = .wrToken ∨ s.xstate = .wrSize → s.addr = 0
  /-- The drain never runs out of bytes (R239). -/
  drainBound : s.xstate = .wrDrain → s.drainLeft ≤ s.rxq.length
  /-- TIDX indexes the token, or counts the size bytes (R40). -/
  tokenIndex : s.xstate = .wrToken → s.tidx.toNat < (writeToken p).length
  sizeIndex : s.xstate = .wrSize → s.tidx.toNat ≤ 1
  readSizeIndex : s.xstate = .rdSize → s.rdSizeBytes.length = s.tidx.toNat ∧ s.tidx.toNat ≤ 2
  /-- `|DST| = 6 + ADDR` until a retraction (R252), and DST begins with the prefix whose size is still zero (R299). -/
  readSink : s.xstate = .rdSize ∨ s.xstate = .rdWait → ∃ r, s.dstBind = some r ∧ (sinkOf s r).length = 6 + s.addr.toNat
  readSurplus : s.xstate = .rdFinish → ∃ r, s.dstBind = some r ∧ 6 + s.addr.toNat ≤ (sinkOf s r).length
  readHead : s.xstate = .rdSize ∨ s.xstate = .rdWait ∨ s.xstate = .rdFinish →
    ∃ r, s.dstBind = some r ∧ (Memory.bytes (sinkOf s r)).take 6 = readPrefix
  /-- FFRUN counts bytes received, and in sentinel mode stays below NUM_FF_CHK (R42, R254). -/
  readStart : s.xstate = .rdInit ∨ s.xstate = .rdSize → s.addr = 0 ∧ s.ffrun = 0 ∧ s.rdPending = none
  runBound : s.xstate = .rdWait → s.ffrun.toNat ≤ s.addr.toNat
  runSentinel : s.xstate = .rdWait → cfgTermMode s.scfg = true → s.ffrun.toNat < (numFfChk p).toNat
  /-- A byte is awaited or held only where the stop tests have let the loop go on (R251). -/
  readWaits : s.xstate = .rdWait → s.timer = true ∨ s.rdPending.isSome = true →
    stopBefore p s = false ∧ atCeiling s = false

end Sys2Proof.Machine
end

