-- ==== Sys2Proof/WellFormed.lean ====
section
/-! DEFINITION. Which terms of `Instr` stand for an instruction the spec's encodings can express and the machine does not
refuse for its form: operand lengths and PACK_TYPE (R266 orders 4 and 5), the frame bytes R112 to R117 leave to each
class, and the conditions of the kind table R125. -/

namespace Sys2Proof

/-- A CFG operand's PACK_TYPE is 0, 1 or 2 (R33, R109). -/
def cfgWellFormed (cfg : BitVec 40) : Bool := cfg.extractLsb' 0 2 != 3#2

/-- A length byte of a SHORT frame: any but 0xFF, which is END (R116). -/
def shortLenWellFormed (len : Byte) : Bool := len != 0xFF#8

/-- The well-formed instructions. -/
def wellFormed : Instr → Bool
  | .decode _ => true
  | .encode pack cfg _ => pack.hdr.length == 10 && cfgWellFormed cfg
  | .frameEnc _ _ => true
  | .frameClassify bytes => bytes.length != 0
  | .hdrParse h => h.length == 10
  | .csum h => h.length == 8
  | .csumCheck h => h.length == 10
  | .hdrPatch h cfg => h.length == 10 && cfgWellFormed cfg
  | .startWrite cfg => cfgWellFormed cfg
  | .startRead cfg => cfgWellFormed cfg
  | .sessionOpen _ _ cfg => cfgWellFormed cfg
  | .sessionClose => true
  | .endFrame => true
  | .badFrame lead => lead != 0xFF#8
  | .longFrame lead _ => lead != 0xFF#8
  | .shortFrame len type => shortLenWellFormed len && type != 0x80#8 && type != 0xFF#8
  | .kindUnknownFF len => shortLenWellFormed len
  | .kindDfdecl _ len => shortLenWellFormed len && decide (9 ≤ len.toNat)
  | .kindUnknownShortdecl _ len => decide (len.toNat < 9)
  | .kindDiary _ len => shortLenWellFormed len
  | .kindOpl _ len => shortLenWellFormed len
  | .kindComms _ len => shortLenWellFormed len
  | .kindSheet _ len => shortLenWellFormed len
  | .kindPager _ len => shortLenWellFormed len
  | .kindNotes _ len => shortLenWellFormed len
  | .kindUnknown80 len => shortLenWellFormed len
  | .kindUnknown88 _ _ len => shortLenWellFormed len
  | .kindData90 _ _ len => shortLenWellFormed len
  | .kindDataA0 _ _ len => shortLenWellFormed len
  | .kindDataC0 _ _ len => shortLenWellFormed len
  | .kindDataE0 _ low len => shortLenWellFormed len && low != 0x1F#5
  | .csaClr => true
  | .csaAddHi _ => true
  | .csaAddLo _ => true
  | .csaCmp _ => true
  | .walkStep => true
  | .lineStep => true
  | .lineXXWrite => true
  | .lineXXRead => true
  | .lineXXExit => true

end Sys2Proof
end

