-- ==== Sys2Proof/Certificates/Slice0/Obligations.lean ====
section
/-! DEFINITION. The statements for the provers. -/

open Sys2Proof Sys2Proof.Machine

/-! Reset -/

/-- The power-on table of R48, whose values the spec marks as its own choice ("the values are the spec's choice"). -/
def Obligations.ResetRegisters : Prop :=
  wstateCode State.reset.wstate = 0 ∧ State.reset.cur = 0 ∧ State.reset.size = 0 ∧ State.reset.nShort = 0 ∧
  State.reset.nLong = 0 ∧ State.reset.nBad = 0 ∧ State.reset.hdr = List.replicate 10 0 ∧ State.reset.diag = 0 ∧
  State.reset.status = 0 ∧ State.reset.busy = false ∧ State.reset.endAddr = 0 ∧ State.reset.endValid = false ∧
  State.reset.cfg = 0 ∧ State.reset.scfg = 0 ∧ State.reset.reg = [] ∧ State.reset.recs = [] ∧ State.reset.csa = 0 ∧
  xstateCode State.reset.xstate = 0 ∧ State.reset.addr = 0 ∧ State.reset.tsize = 0 ∧ State.reset.tidx = 0 ∧
  State.reset.lastTx = 0 ∧ State.reset.ffrun = 0 ∧ State.reset.linebuf = [] ∧ State.reset.lineOvf = false ∧
  State.reset.opkind = .write ∧ State.reset.timer = false

/-- The invariant holds at reset, with the host's buffers, HCMD and CH_ERR as log entries 3, 7 and 8 choose them. -/
def Obligations.ResetMeetsInvariant : Prop := Inv Config.params State.reset

/-! The checksum unit -/

/-- R140: CSA_CLR. -/
def Obligations.CsaClrZeroes : Prop := ∀ s : State, exec .csaClr s = .next { s with csa := 0 }

/-- R141: CSA_ADD_HI adds b * 256 modulo 2^16, and bits 7..0 of CSA never change. -/
def Obligations.CsaAddHiModular : Prop :=
  ∀ (b : Byte) (s : State),
    exec (.csaAddHi b) s = .next { s with csa := BitVec.ofNat 16 ((s.csa.toNat + b.toNat * 256) % 65536) } ∧
    ∀ t, exec (.csaAddHi b) s = .next t → t.csa.extractLsb' 0 8 = s.csa.extractLsb' 0 8

/-- R142: CSA_ADD_LO adds b modulo 2^16. -/
def Obligations.CsaAddLoModular : Prop :=
  ∀ (b : Byte) (s : State),
    exec (.csaAddLo b) s = .next { s with csa := BitVec.ofNat 16 ((s.csa.toNat + b.toNat) % 65536) }

/-- R143: CSA_CMP leaves CSA and gives whether it equals the operand, in the model's own field (log entry 4). -/
def Obligations.CsaCmpGivesMatch : Prop :=
  ∀ (w : BitVec 16) (s : State), exec (.csaCmp w) s = .next { s with csMatch := decide (s.csa = w) }

/-- R146 with R145 ("Result equals `checksum(h)` of rule R145", which the spec marks derived): CSUM answers the sum of
the four big-endian word pairs modulo 65536, and refuses any other length than 8. -/
def Obligations.CsumIsWordPairSum : Prop :=
  ∀ (h : List Byte) (s : State), s.busy = false →
    (∀ h0 h1 h2 h3 h4 h5 h6 h7 : Byte, h = [h0, h1, h2, h3, h4, h5, h6, h7] →
      ∃ c : BitVec 16,
        c = BitVec.ofNat 16 ((h0.toNat * 256 + h1.toNat + (h2.toNat * 256 + h3.toNat) + (h4.toNat * 256 + h5.toNat) +
          (h6.toNat * 256 + h7.toNat)) % 65536) ∧
        exec (.csum h) s = .next { answered s 0x00 (.csum c) with csa := c }) ∧
    (h.length ≠ 8 → exec (.csum h) s = .next (answered s 0x32 .none))

/-- R148: the validator's verdict; a boot-mode header is never a mismatch. CSA is cleared at the start in both modes,
which R148 does not say and R291 lists (log entry 16). The outcome of CSA_CMP stands in the model's csMatch (log entry
4). -/
def Obligations.CsumCheckVerdict : Prop :=
  ∀ (h : List Byte) (s : State), s.busy = false → h.length = 10 →
    exec (.csumCheck h) s = .next
      (if (h.getD 0 0).getLsbD 4 = Config.params.bootSense then { answered s 0x00 (.check .notApplicable) with csa := 0 }
       else
        { answered s 0x00
            (.check (if checksum h = be16 (h.getD 8 0) (h.getD 9 0) then .isMatch else .mismatch)) with
          csa := checksum h
          csMatch := decide (checksum h = be16 (h.getD 8 0) (h.getD 9 0)) })

/-- R144: the fields HDR_PARSE answers, in both header modes; CSA and csMatch as log entries 4 and 16 say. -/
def Obligations.HdrParseFields : Prop :=
  ∀ (h0 h1 h2 h3 h4 h5 h6 h7 h8 h9 : Byte) (s : State), s.busy = false →
    ∃ info : HdrInfo,
      exec (.hdrParse [h0, h1, h2, h3, h4, h5, h6, h7, h8, h9]) s = .next
        (if h0.getLsbD 4 = Config.params.bootSense then { answered s 0x00 (.header info) with csa := 0 }
         else
          { answered s 0x00 (.header info) with
            csa := checksum [h0, h1, h2, h3, h4, h5, h6, h7]
            csMatch := decide (checksum [h0, h1, h2, h3, h4, h5, h6, h7] = be16 h8 h9) }) ∧
      info.id = h0 ∧ info.ram = !h0.getLsbD 1 ∧ info.paged = h0.getLsbD 2 ∧ info.writeProtected = !h0.getLsbD 3 ∧
      info.sizeCode = h1 ∧ info.capacity.toNat = h1.toNat * 8192 ∧ info.stored.toNat = h8.toNat * 256 + h9.toNat ∧
      (if h0.getLsbD 4 = Config.params.bootSense then
        info.computed = none ∧ info.result = .notApplicable ∧
        info.mode = .boot { codeType := h2, deviceId := h3, version := h4, priority := h5, bootAddr := be16 h6 h7 }
       else
        info.computed = some (checksum [h0, h1, h2, h3, h4, h5, h6, h7]) ∧
        info.result = (if checksum [h0, h1, h2, h3, h4, h5, h6, h7] = be16 h8 h9 then .isMatch else .mismatch) ∧
        info.mode = .timestamp
          { yr := h2, mth := h3, day := h4, hr := h5, counter := be16 h6 h7, year := 1900 + h2.toNat,
            month := h3.toNat + 1, dayOfMonth := h4.toNat + 1, hour := h5.toNat })

/-- R151, R153, R154: the ten bytes HDR_PATCH answers, and what it leaves in CFG and CSA. -/
def Obligations.HdrPatchBytes : Prop :=
  ∀ (h0 h1 h2 h3 h4 h5 h6 h7 h8 h9 : Byte) (cfg : BitVec 40) (s : State), s.busy = false → cfgPackType cfg ≠ 3#2 →
    ∃ g0 g1 : Byte, ∃ c : BitVec 16,
      g0 = patchId h0 cfg ∧ g1 = (if cfgSzOvrEn cfg = true then cfgSzOvr cfg else h1) ∧
      c = checksum [g0, g1, h2, h3, h4, h5, h6, h7] ∧
      exec (.hdrPatch [h0, h1, h2, h3, h4, h5, h6, h7, h8, h9] cfg) s = .next
        (if cfgRecompute cfg = true then
          { answered s 0x00 (.patched [g0, g1, h2, h3, h4, h5, h6, h7, hi8 c, lo8 c]) with cfg := cfg, csa := c }
         else { answered s 0x00 (.patched [g0, g1, h2, h3, h4, h5, h6, h7, h8, h9]) with cfg := cfg })

/-- R152: the id byte bit by bit; bits 0, 4, 5, 6 and 7 never change. -/
def Obligations.PatchIdBits : Prop :=
  ∀ (b : Byte) (cfg : BitVec 40), cfgPackType cfg ≠ 3#2 →
    (patchId b cfg).getLsbD 1 =
      (if cfgPackType cfg = 1#2 then true else if cfgPackType cfg = 2#2 then false else b.getLsbD 1) ∧
    (patchId b cfg).getLsbD 2 = (cfgSetPaged cfg || b.getLsbD 2) ∧
    (patchId b cfg).getLsbD 3 = (!cfgSetWp cfg && b.getLsbD 3) ∧
    ∀ i, i = 0 ∨ i = 4 ∨ i = 5 ∨ i = 6 ∨ i = 7 → (patchId b cfg).getLsbD i = b.getLsbD i

/-- R155, which the spec marks derived: with no patch HDR_PATCH answers its operand. -/
def Obligations.HdrPatchIdentity : Prop :=
  ∀ (h : List Byte) (cfg : BitVec 40) (s : State), s.busy = false → h.length = 10 → identityCfg cfg = true →
    exec (.hdrPatch h cfg) s = .next { answered s 0x00 (.patched h) with cfg := cfg }

/-! Frames -/

/-- R171: the class of every byte pair. -/
def Obligations.ClassifyTable : Prop :=
  ∀ b0 b1 : Byte,
    (classify b0 b1 = .endF ↔ b0 = 0xFF#8) ∧
    (classify b0 b1 = .bad ↔ b0 ≠ 0xFF#8 ∧ b1 = 0xFF#8) ∧
    (classify b0 b1 = .long ↔ b0 ≠ 0xFF#8 ∧ b1 = 0x80#8) ∧
    (classify b0 b1 = .short ↔ b0 ≠ 0xFF#8 ∧ b1 ≠ 0xFF#8 ∧ b1 ≠ 0x80#8)

/-- R172: the kind of every type byte and length. -/
def Obligations.KindTable : Prop :=
  ∀ (type : Byte) (len : Nat),
    kindOf type len =
      (if (type ||| 0x80#8).toNat = 0x81 ∧ 9 ≤ len then .dfdecl
       else if (type ||| 0x80#8).toNat = 0x82 then .diary
       else if (type ||| 0x80#8).toNat = 0x83 then .opl
       else if (type ||| 0x80#8).toNat = 0x84 then .comms
       else if (type ||| 0x80#8).toNat = 0x85 then .sheet
       else if (type ||| 0x80#8).toNat = 0x86 then .pager
       else if (type ||| 0x80#8).toNat = 0x87 then .notes
       else if 0x90 ≤ (type ||| 0x80#8).toNat ∧ (type ||| 0x80#8).toNat ≤ 0xFE then .data
       else .unknown)

/-- R170: what FRAME_CLASSIFY answers for every non-empty operand. -/
def Obligations.FrameClassifyAnswers : Prop :=
  ∀ (b0 b1 x y : Byte) (rest : List Byte) (s : State), s.busy = false →
    exec (.frameClassify (0xFF#8 :: rest)) s = .next (answered s 0x00 (.classified (.endF 1))) ∧
    (b0 ≠ 0xFF#8 → exec (.frameClassify [b0]) s = .next (answered s 0x00 (.classified (.incomplete 2)))) ∧
    (b0 ≠ 0xFF#8 → exec (.frameClassify (b0 :: 0xFF#8 :: rest)) s = .next (answered s 0x00 (.classified (.bad b0 0 2)))) ∧
    (b0 ≠ 0xFF#8 → rest.length < 2 →
      exec (.frameClassify (b0 :: 0x80#8 :: rest)) s = .next (answered s 0x00 (.classified (.incomplete 4)))) ∧
    (b0 ≠ 0xFF#8 → exec (.frameClassify (b0 :: 0x80#8 :: x :: y :: rest)) s = .next
      (answered s 0x00 (.classified (.long b0 (x.toNat * 256 + y.toNat) (x.toNat * 256 + y.toNat + 4))))) ∧
    (b0 ≠ 0xFF#8 → b1 ≠ 0xFF#8 → b1 ≠ 0x80#8 → exec (.frameClassify (b0 :: b1 :: rest)) s = .next
      (answered s 0x00 (.classified (.short
        { len := b0.toNat
          type := b1
          t := b1 ||| 0x80#8
          deleted := decide (b1.toNat < 0x80)
          kind := kindOf b1 b0.toNat
          size := b0.toNat + 2
          dfId := if kindOf b1 b0.toNat = .data then some (dfId Config.params b1) else none
          decl :=
            if kindOf b1 b0.toNat = .dfdecl ∧ 9 ≤ rest.length then
              some { name := rest.take 8, id := rest.getD 8 0 }
            else none }))))

/-- R136, R134: the bytes of each descriptor, and the descriptors that have none. -/
def Obligations.FrameBytesForms : Prop :=
  frameBytes .endF = some [0xFF#8] ∧
  (∀ lead : Byte, frameBytes (.bad lead) = if lead = 0xFF#8 then none else some [lead, 0xFF#8]) ∧
  (∀ (lead : Byte) (p : List Byte), frameBytes (.long lead p) =
    if lead = 0xFF#8 ∨ 0xFFFF < p.length then none
    else some ([lead, 0x80#8, BitVec.ofNat 8 (p.length / 256), BitVec.ofNat 8 (p.length % 256)] ++ p)) ∧
  (∀ (type : Byte) (p : List Byte), frameBytes (.short type p) =
    if 254 < p.length ∨ type = 0x80#8 ∨ type = 0xFF#8 then none else some ([BitVec.ofNat 8 p.length, type] ++ p))

/-- R188: FRAME_ENC appends the frame's bytes to its sink and changes no other byte; an invalid descriptor appends
nothing. -/
def Obligations.FrameEncEffect : Prop :=
  ∀ (d : FrameDesc) (dst : Nat) (s : State), s.busy = false → s.xstate.inOperation = false → Store.wf s.sinks = true →
    (∀ out, frameBytes d = some out →
      ∃ t, exec (.frameEnc d dst) s = .next t ∧ t = { answered s 0x00 .none with sinks := t.sinks } ∧
        Memory.bytes (sinkOf t dst) = Memory.bytes (sinkOf s dst) ++ out ∧
        ∀ r i, r ≠ dst ∨ i < (sinkOf s dst).length → Memory.read (sinkOf t r) i = Memory.read (sinkOf s r) i) ∧
    (frameBytes d = none → exec (.frameEnc d dst) s = .next { answered s 0x31 .none with timer := false })

/-- R189, which the spec marks derived: a frame that FRAME_ENC accepts classifies as its descriptor, and a walk over
it gives the descriptor back. For END the walk stops at the frame itself, at 0x0A (log entry 40). -/
def Obligations.FrameRoundTrip : Prop :=
  ∀ (d : FrameDesc) (f : List Byte) (s : State), frameBytes d = some f → ready s = true →
    (∃ c, exec (.frameClassify f) s = .next (answered s 0x00 (.classified c)) ∧
      match d with
      | .endF => c = .endF f.length
      | .bad lead => c = .bad lead 0 f.length
      | .long lead p => c = .long lead p.length f.length
      | .short type p => ∃ i, c = .short i ∧ i.type = type ∧ i.len = p.length ∧ i.size = f.length) ∧
    (∀ h : List Byte, h.length = 10 →
      ∃ pack, decodesTo s (containerOf (h ++ f ++ [0xFF#8])) pack ∧ pack.terminal = .wEnd ∧
        pack.recs.map descriptor = (if d = .endF then [] else [d]) ∧
        pack.endAddr = some (BitVec.ofNat 25 (if d = .endF then 0x0A else 0x0A + f.length)))

/-! The walk -/

/-- R180: what WALK_STEP does at the end of the image, at a sentinel, at a frame that passes SIZE, and at a BAD or
LONG frame; at a SHORT frame it is the SHORT frame's effect. -/
def Obligations.WalkStepEffect : Prop :=
  ∀ s : State, s.wstate = .wRecords →
    (s.cur.toNat = s.size.toNat → exec .walkStep s = .next { s with diag := s.diag ||| 0x02#8, wstate := .wSize }) ∧
    (imgByte s s.cur.toNat = .ok 0xFF#8 →
      exec .walkStep s = .next { s with endAddr := s.cur, endValid := true, wstate := .wEnd }) ∧
    (∀ b0, imgByte s s.cur.toNat = .ok b0 → b0 ≠ 0xFF#8 →
      (s.size.toNat < s.cur.toNat + 2 →
        exec .walkStep s = .next { s with diag := s.diag ||| 0x04#8, wstate := .wTrunc }) ∧
      ∀ b1, imgByte s (s.cur.toNat + 1) = .ok b1 →
        (b1 = 0xFF#8 → exec .walkStep s = .next
          { s with
            recs := s.recs ++
              [{ cls := .bad, addr := s.cur, b0 := b0, b1 := 0xFF#8, len := 0, payload := [], deleted := none,
                 kind := none, decl := none, dfId := none, owner := none }]
            nBad := s.nBad + 1
            cur := BitVec.ofNat 25 (s.cur.toNat + 2) }) ∧
        (b1 = 0x80#8 →
          (s.size.toNat < s.cur.toNat + 4 →
            exec .walkStep s = .next { s with diag := s.diag ||| 0x04#8, wstate := .wTrunc }) ∧
          ∀ x y, imgByte s (s.cur.toNat + 2) = .ok x → imgByte s (s.cur.toNat + 3) = .ok y →
            (s.size.toNat < s.cur.toNat + 4 + (x.toNat * 256 + y.toNat) →
              exec .walkStep s = .next { s with diag := s.diag ||| 0x04#8, wstate := .wTrunc }) ∧
            ∀ q, imgBytes s (s.cur.toNat + 4) (x.toNat * 256 + y.toNat) = .ok q → exec .walkStep s = .next
              { s with
                recs := s.recs ++
                  [{ cls := .long, addr := s.cur, b0 := b0, b1 := 0x80#8, len := be16 x y, payload := q,
                     deleted := none, kind := none, decl := none, dfId := none, owner := none }]
                nLong := s.nLong + 1
                cur := BitVec.ofNat 25 (s.cur.toNat + 4 + (x.toNat * 256 + y.toNat)) }) ∧
        (b1 ≠ 0xFF#8 → b1 ≠ 0x80#8 → exec .walkStep s = exec (.shortFrame b0 b1) s))

/-- R180, R113 to R115: the effect of END, BAD and LONG frames at CUR, or the truncated end of the walk. That such a
row, taken as an instruction, is the walk's effect whatever bytes stand at CUR is log entry 19. -/
def Obligations.FrameClassEffect : Prop :=
  ∀ s : State, s.wstate = .wRecords → s.cur.toNat < s.size.toNat →
    exec .endFrame s = .next { s with endAddr := s.cur, endValid := true, wstate := .wEnd } ∧
    (∀ lead, s.cur.toNat + 2 ≤ s.size.toNat → exec (.badFrame lead) s = .next
      { s with
        recs := s.recs ++
          [{ cls := .bad, addr := s.cur, b0 := lead, b1 := 0xFF#8, len := 0, payload := [], deleted := none,
             kind := none, decl := none, dfId := none, owner := none }]
        nBad := s.nBad + 1
        cur := BitVec.ofNat 25 (s.cur.toNat + 2) }) ∧
    (∀ lead, s.size.toNat < s.cur.toNat + 2 →
      exec (.badFrame lead) s = .next { s with diag := s.diag ||| 0x04#8, wstate := .wTrunc }) ∧
    (∀ lead (len : BitVec 16) q, imgBytes s (s.cur.toNat + 4) len.toNat = .ok q →
      s.cur.toNat + 4 + len.toNat ≤ s.size.toNat → exec (.longFrame lead len) s = .next
        { s with
          recs := s.recs ++
            [{ cls := .long, addr := s.cur, b0 := lead, b1 := 0x80#8, len := len, payload := q, deleted := none,
               kind := none, decl := none, dfId := none, owner := none }]
          nLong := s.nLong + 1
          cur := BitVec.ofNat 25 (s.cur.toNat + 4 + len.toNat) }) ∧
    (∀ lead (len : BitVec 16), s.size.toNat < s.cur.toNat + 4 + len.toNat →
      exec (.longFrame lead len) s = .next { s with diag := s.diag ||| 0x04#8, wstate := .wTrunc })

/-- R184, R125: the rows of the kind table that neither declare nor own append their entry and change nothing else. A
row as an instruction is the model's reading of the table (log entries 19 and 20). -/
def Obligations.PlainKindRows : Prop :=
  ∀ (i : Instr) (k : Kind) (t len : Byte) (live : Bool) (q : List Byte) (s : State),
    (∃ low : BitVec 3,
      (i, k, t) = (.kindDiary live len, .diary, 0x82#8) ∨ (i, k, t) = (.kindOpl live len, .opl, 0x83#8) ∨
      (i, k, t) = (.kindComms live len, .comms, 0x84#8) ∨ (i, k, t) = (.kindSheet live len, .sheet, 0x85#8) ∨
      (i, k, t) = (.kindPager live len, .pager, 0x86#8) ∨ (i, k, t) = (.kindNotes live len, .notes, 0x87#8) ∨
      (i, k, t) = (.kindUnknownShortdecl live len, .unknown, 0x81#8) ∨
      (i, k, t) = (.kindUnknown88 live low len, .unknown, 0x88#8 + low.zeroExtend 8) ∨
      (live = false ∧ (i, k, t) = (.kindUnknownFF len, .unknown, 0xFF#8)) ∨
      (live = false ∧ (i, k, t) = (.kindUnknown80 len, .unknown, 0x80#8))) →
    s.wstate = .wRecords → s.cur.toNat + 2 + len.toNat ≤ s.size.toNat →
    imgBytes s (s.cur.toNat + 2) len.toNat = .ok q →
    exec i s = .next
      { s with
        recs := s.recs ++
          [{ cls := .short, addr := s.cur, b0 := len, b1 := if live then t else t &&& 0x7F#8, len := len.zeroExtend 16,
             payload := q, deleted := some (!live), kind := some k, decl := none, dfId := none, owner := none }]
        nShort := s.nShort + 1
        cur := BitVec.ofNat 25 (s.cur.toNat + 2 + len.toNat) }

/-- R184, R185, R118: a declaration is appended with its name and id and is registered, a deleted one only where
REGISTER_DELETED is true (the row as an instruction: log entries 19 and 20). -/
def Obligations.DeclarationRegisters : Prop :=
  ∀ (live : Bool) (len : Byte) (q : List Byte) (s : State), 9 ≤ len.toNat → s.wstate = .wRecords →
    s.cur.toNat + 2 + len.toNat ≤ s.size.toNat → imgBytes s (s.cur.toNat + 2) len.toNat = .ok q →
    exec (.kindDfdecl live len) s = .next
      { s with
        reg :=
          if live = true ∨ Config.params.registerDeleted = true then
            s.reg ++ [{ name := q.take 8, id := q.getD 8 0, declAddr := s.cur }]
          else s.reg
        recs := s.recs ++
          [{ cls := .short, addr := s.cur, b0 := len, b1 := if live then 0x81#8 else 0x01#8, len := len.zeroExtend 16,
             payload := q, deleted := some (!live), kind := some .dfdecl,
             decl := some { name := q.take 8, id := q.getD 8 0 }, dfId := none, owner := none }]
        nShort := s.nShort + 1
        cur := BitVec.ofNat 25 (s.cur.toNat + 2 + len.toNat) }

/-- R184, R186, R174: a data record carries the id of its type code and the owner the registry gives it; a failed
lookup sets ID_NOT_FOUND and nothing else (the row as an instruction: log entries 19 and 20). -/
def Obligations.DataRecordsResolve : Prop :=
  ∀ (i : Instr) (t len : Byte) (live : Bool) (q : List Byte) (s : State),
    (∃ (low4 : BitVec 4) (low5 : BitVec 5),
      (i, t) = (.kindData90 live low4 len, 0x90#8 + low4.zeroExtend 8) ∨
      (i, t) = (.kindDataA0 live low5 len, 0xA0#8 + low5.zeroExtend 8) ∨
      (i, t) = (.kindDataC0 live low5 len, 0xC0#8 + low5.zeroExtend 8) ∨
      (i, t) = (.kindDataE0 live low5 len, 0xE0#8 + low5.zeroExtend 8)) →
    s.wstate = .wRecords → s.cur.toNat + 2 + len.toNat ≤ s.size.toNat →
    imgBytes s (s.cur.toNat + 2) len.toNat = .ok q →
    exec i s = .next
      { s with
        diag := if s.reg.any (fun e => e.id == dfId Config.params t) then s.diag else s.diag ||| 0x08#8
        recs := s.recs ++
          [{ cls := .short, addr := s.cur, b0 := len, b1 := if live then t else t &&& 0x7F#8, len := len.zeroExtend 16,
             payload := q, deleted := some (!live), kind := some .data, decl := none,
             dfId := some (dfId Config.params t),
             owner := some (match (s.reg.filter (fun e => e.id == dfId Config.params t)).getLast? with
               | some e => .found { name := e.name, id := e.id }
               | none => .notFound) }]
        nShort := s.nShort + 1
        cur := BitVec.ofNat 25 (s.cur.toNat + 2 + len.toNat) }

/-- A well-formed row of the kind table is the SHORT frame with its type byte and length. R125 and R172 give the
kinds; that a row is an instruction whose meaning is the SHORT frame is the model's choice (log entry 20). -/
def Obligations.KindRowsAreShortFrames : Prop :=
  ∀ (i : Instr) (t len : Byte) (live : Bool) (s : State), wellFormed i = true → encode i = .kind t live len →
    exec i s = exec (.shortFrame len (if live then t else t &&& 0x7F#8)) s

/-- R180, R184: a SHORT frame of any type and length that ends by SIZE is appended and CUR passes it; its registry and
DIAG effects are the only others. One that passes SIZE ends the walk. That the SHORT row, taken as an instruction, is
the walk's effect whatever bytes stand at CUR is log entry 19. -/
def Obligations.ShortFrameAppends : Prop :=
  ∀ (len type : Byte) (s : State), s.wstate = .wRecords → s.cur.toNat < s.size.toNat →
    (∀ q, s.cur.toNat + 2 + len.toNat ≤ s.size.toNat → imgBytes s (s.cur.toNat + 2) len.toNat = .ok q →
      ∃ e t, exec (.shortFrame len type) s = .next t ∧
        t = { s with
              reg := t.reg
              diag := t.diag
              recs := s.recs ++ [e]
              nShort := s.nShort + 1
              cur := BitVec.ofNat 25 (s.cur.toNat + 2 + len.toNat) } ∧
        e.cls = .short ∧ e.addr = s.cur ∧ e.b0 = len ∧ e.b1 = type ∧ e.len.toNat = len.toNat ∧ e.payload = q ∧
        e.deleted = some (decide (type.toNat < 0x80)) ∧ e.kind = some (kindOf type len.toNat) ∧
        (kindOf type len.toNat ≠ .dfdecl → t.reg = s.reg) ∧ (kindOf type len.toNat ≠ .data → t.diag = s.diag)) ∧
    (s.size.toNat < s.cur.toNat + 2 + len.toNat →
      exec (.shortFrame len type) s = .next { s with diag := s.diag ||| 0x04#8, wstate := .wTrunc })

/-- R186: the last entry with the id is the owner; with no such entry there is none. -/
def Obligations.RegistryLastWins : Prop :=
  ∀ (before after : List RegEntry) (e : RegEntry) (id : Byte),
    ((∀ x ∈ after, x.id ≠ e.id) →
      ownerOf (before ++ e :: after) e.id = .found { name := e.name, id := e.id }) ∧
    ((∀ x ∈ before, x.id ≠ id) → ownerOf before id = .notFound)

/-! DECODE -/

/-- R197, R275: an acceptable container is latched and the walk registers are cleared; otherwise the first check that
fails gives BAD_MAGIC or TRUNCATED, and SIZE is latched only where it was read. That the header is a step of its own
is the model's choice (log entry 10), and so is SRC latched by value (log entry 31). -/
def Obligations.DecodeAcceptance : Prop :=
  ∀ (src : List Byte) (s : State), s.busy = false → s.xstate.inOperation = false →
    ∃ u : State,
      u = { s with
            diag := 0
            src := Memory.ofBytes src
            recs := []
            reg := []
            nShort := 0
            nLong := 0
            nBad := 0
            endValid := false
            wstate := .wIdle } ∧
      exec (.decode src) s = .next
        (if src.take 3 ≠ [0x4F#8, 0x50#8, 0x4B#8] then { answered u 0x01 .none with timer := false }
         else if src.length < 6 then { answered u 0x02 .none with timer := false }
         else if src.length - 6 < (be24 (src.getD 3 0) (src.getD 4 0) (src.getD 5 0)).toNat ∨
            (be24 (src.getD 3 0) (src.getD 4 0) (src.getD 5 0)).toNat < 10 then
          { answered u 0x02 .none with timer := false, size := be24 (src.getD 3 0) (src.getD 4 0) (src.getD 5 0) }
         else { u with busy := true, size := be24 (src.getD 3 0) (src.getD 4 0) (src.getD 5 0), wstate := .wHeader })

/-- R198, R149: the header step latches image bytes 0..9, sets CSUM_MISMATCH only for a timestamp header whose stored
checksum differs, and starts the walk at 0x0A. That it is a step of its own is log entry 10, csMatch log entry 4, and
the clearing of CSA for a boot-mode header log entry 16. -/
def Obligations.DecodeHeaderStep : Prop :=
  ∀ s : State, s.sched = [] → s.busy = true → s.xstate.inOperation = false → s.wstate = .wHeader →
    Memory.wf s.src = true → 10 ≤ s.size.toNat → 6 + s.size.toNat ≤ s.src.length →
    ∃ h : List Byte, h = ((Memory.bytes s.src).drop 6).take 10 ∧
      step s = .next
        (if (h.getD 0 0).getLsbD 4 = Config.params.bootSense then
          { s with hdr := h, cur := 0x0A, wstate := .wRecords, csa := 0 }
         else
          { s with
            hdr := h
            cur := 0x0A
            wstate := .wRecords
            csa := checksum h
            csMatch := decide (checksum h = be16 (h.getD 8 0) (h.getD 9 0))
            diag := if checksum h = be16 (h.getD 8 0) (h.getD 9 0) then s.diag else s.diag ||| 0x01#8 })

/-- R200, R195, R183: the result step answers STATUS OK with the DecodedPack of the registers: its header is what
HDR_PARSE of HDR answers, its tail the image from CUR to SIZE (the step: log entry 10). -/
def Obligations.DecodeResultStep : Prop :=
  ∀ s : State, s.sched = [] → s.busy = true → s.xstate.inOperation = false →
    s.wstate = .wEnd ∨ s.wstate = .wSize ∨ s.wstate = .wTrunc → (s.wstate = .wEnd → s.endValid = true) →
    Memory.wf s.src = true → s.cur.toNat ≤ s.size.toNat → 6 + s.size.toNat ≤ s.src.length →
    ∃ pack : DecodedPack,
      step s = .next
        { s with status := 0x00, busy := false, hrsp := { status := 0x00, diag := s.diag, result := .decoded pack } } ∧
      pack.hdr = s.hdr ∧ pack.size = s.size ∧ pack.recs = s.recs ∧ pack.registry = s.reg ∧ pack.nShort = s.nShort ∧
      pack.nLong = s.nLong ∧ pack.nBad = s.nBad ∧ pack.terminal = s.wstate ∧
      pack.endAddr = (if s.wstate = .wEnd then some s.endAddr else none) ∧ pack.diag = s.diag.extractLsb' 0 4 ∧
      pack.tail = ((Memory.bytes s.src).drop (6 + s.cur.toNat)).take (s.size.toNat - s.cur.toNat) ∧
      pack.header = (parseHeader Config.params s.hdr s).2 ∧
      ∀ s' : State, s'.busy = false → s.hdr.length = 10 →
        ∃ t, exec (.hdrParse s.hdr) s' = .next t ∧ t.hrsp.result = .header pack.header

/-- R199 with the bound of R182, which the spec marks derived: DECODE of an acceptable container ends with STATUS OK
within (SIZE - 10) / 2 + 1 walk steps beside its header and result steps (log entry 10). -/
def Obligations.DecodeCompletes : Prop :=
  ∀ (src : List Byte) (s : State), ready s = true → acceptable src = true →
    ∃ s1 t pack, exec (.decode src) s = .next s1 ∧
      runBusy (((containerSize src).toNat - 10) / 2 + 1 + 2) s1 = .next t ∧ t.busy = false ∧ t.status = 0x00 ∧
      t.hrsp.result = .decoded pack

/-- R210, which the spec marks derived: ENCODE of what DECODE gave, with no patch, writes the container without its
surplus bytes. -/
def Obligations.EncodeOfDecodeIsByteIdentity : Prop :=
  ∀ (b : List Byte) (pack : DecodedPack) (cfg : BitVec 40) (dst : Nat) (s s' : State),
    ready s = true → decodesTo s b pack → identityCfg cfg = true →
    (cfgHwBound cfg = true → pack.size.toNat ≤ 0xFFFF) → s'.busy = false → Store.wf s'.sinks = true →
    ∃ t, exec (.encode (packOperand pack) cfg dst) s' = .next t ∧ t.status = 0x00 ∧
      Memory.bytes (sinkOf t dst) = b.take (6 + pack.size.toNat)

/-- R209, which the spec marks derived: DECODE of that ENCODE gives the same DecodedPack, field by field. -/
def Obligations.DecodeEncodeRoundTrip : Prop :=
  ∀ (b : List Byte) (pack : DecodedPack) (cfg : BitVec 40) (dst : Nat) (s s' t s'' : State),
    ready s = true → decodesTo s b pack → identityCfg cfg = true → s'.busy = false → Store.wf s'.sinks = true →
    exec (.encode (packOperand pack) cfg dst) s' = .next t → t.status = 0x00 → ready s'' = true →
    decodesTo s'' (Memory.bytes (sinkOf t dst)) pack

/-- R81: the result of DECODE does not depend on what the registers held. -/
def Obligations.DecodeIsPure : Prop :=
  ∀ (src : List Byte) (pack : DecodedPack) (s s' : State), ready s = true → ready s' = true → decodesTo s src pack →
    decodesTo s' src pack

/-- R81: nor does the answer of any other codec command. -/
def Obligations.CodecAnswersArePure : Prop :=
  ∀ (i : Instr) (s s' t t' : State), isCodecCommand i = true → (∀ src, i ≠ .decode src) → s.busy = false →
    s'.busy = false → exec i s = .next t → exec i s' = .next t' → t.hrsp = t'.hrsp

/-! ENCODE -/

/-- R203, R204, R206: ENCODE writes the container of the patched header, the frames and the tail into its sink,
whatever the sink held, and no other byte (log entry 15). -/
def Obligations.EncodeWritesContainer : Prop :=
  ∀ (pack : PackOperand) (cfg : BitVec 40) (dst : Nat) (frames : List Byte) (s : State),
    s.busy = false → pack.hdr.length = 10 → cfgPackType cfg ≠ 3#2 → packBytes pack.recs = some frames →
    10 + (frames.length + pack.tail.length) ≤ 0xFFFFFF →
    (cfgHwBound cfg = true → 10 + (frames.length + pack.tail.length) ≤ 0xFFFF) → Store.wf s.sinks = true →
    ∃ t, exec (.encode pack cfg dst) s = .next t ∧
      t = { answered s 0x00 .none with cfg := cfg, csa := (patchHeader pack.hdr cfg s).1.csa, sinks := t.sinks } ∧
      Memory.bytes (sinkOf t dst) =
        [0x4F#8, 0x50#8, 0x4B#8] ++ bytes24 (BitVec.ofNat 24 (10 + (frames.length + pack.tail.length))) ++
          (patchHeader pack.hdr cfg s).2 ++ frames ++ pack.tail ∧
      ∀ r i, r ≠ dst → Memory.read (sinkOf t r) i = Memory.read (sinkOf s r) i

/-- R203, R272, R277: an invalid descriptor aborts with FRAME_INVALID, before the size is looked at; a size that does
not fit aborts with SIZE_ERROR; the sink is then empty (log entry 15) and no other sink changes. -/
def Obligations.EncodeAborts : Prop :=
  ∀ (pack : PackOperand) (cfg : BitVec 40) (dst : Nat) (s : State),
    s.busy = false → s.xstate.inOperation = false → pack.hdr.length = 10 → cfgPackType cfg ≠ 3#2 →
    Store.wf s.sinks = true →
    (packBytes pack.recs = none →
      ∃ t, exec (.encode pack cfg dst) s = .next t ∧
        t = { answered s 0x31 .none with cfg := cfg, timer := false, sinks := t.sinks } ∧
        (∀ i, Memory.read (sinkOf t dst) i = none) ∧
        ∀ r i, r ≠ dst → Memory.read (sinkOf t r) i = Memory.read (sinkOf s r) i) ∧
    (∀ frames, packBytes pack.recs = some frames →
      0xFFFFFF < 10 + (frames.length + pack.tail.length) ∨
        cfgHwBound cfg = true ∧ 0xFFFF < 10 + (frames.length + pack.tail.length) →
      ∃ t, exec (.encode pack cfg dst) s = .next t ∧ t.status = 0x14 ∧ t.busy = false ∧ t.xstate = s.xstate ∧
        (∀ i, Memory.read (sinkOf t dst) i = none) ∧
        ∀ r i, r ≠ dst → Memory.read (sinkOf t r) i = Memory.read (sinkOf s r) i)

/-- R212, which the spec marks derived: with HW_BOUND an image of exactly 0x10000 bytes fails with SIZE_ERROR and
writes nothing, one of exactly 0xFFFF bytes succeeds. -/
def Obligations.EncodeSizeCeiling : Prop :=
  ∀ (pack : PackOperand) (cfg : BitVec 40) (dst : Nat) (frames : List Byte) (s : State),
    s.busy = false → s.xstate.inOperation = false → pack.hdr.length = 10 → cfgPackType cfg ≠ 3#2 →
    cfgHwBound cfg = true → packBytes pack.recs = some frames → Store.wf s.sinks = true →
    (10 + (frames.length + pack.tail.length) = 0x10000 →
      ∃ t, exec (.encode pack cfg dst) s = .next t ∧ t.status = 0x14 ∧ Memory.bytes (sinkOf t dst) = []) ∧
    (10 + (frames.length + pack.tail.length) = 0xFFFF →
      ∃ t, exec (.encode pack cfg dst) s = .next t ∧ t.status = 0x00 ∧ (Memory.bytes (sinkOf t dst)).length = 6 + 0xFFFF)

/-! Session -/

/-- R230, R236: SESSION_OPEN and SESSION_CLOSE where they are legal. Both write STATUS and clear DIAG; that SESSION_CLOSE
does so, though R290 says it leaves them, is the model's reading (log entry 43). -/
def Obligations.SessionOpenAndClose : Prop :=
  ∀ (src dst : Nat) (cfg : BitVec 40) (s : State), s.busy = false →
    (s.xstate = .xClosed → cfgPackType cfg ≠ 3#2 → s.chErr = false →
      exec (.sessionOpen src dst cfg) s = .next
        { answered s 0x00 .none with
          srcBind := some src, dstBind := some dst, scfg := cfg, chOpen := true, linebuf := [], lineOvf := false,
          xstate := .xIdle }) ∧
    (s.xstate = .xClosed → cfgPackType cfg ≠ 3#2 → s.chErr = true →
      exec (.sessionOpen src dst cfg) s = .next (answered s 0x20 .none)) ∧
    (s.xstate = .xIdle → exec .sessionClose s = .next
      { answered s 0x00 .none with
        chOpen := false, xstate := .xClosed, linebuf := [], lineOvf := false, srcBind := none, dstBind := none,
        timer := false })

/-- R235, R238, R248: START_WRITE and START_READ load SCFG and enter their operation with its registers cleared; so
are the model's own drainLeft, rdSizeBytes and rdPending (log entry 5). -/
def Obligations.StartCommandsEnterOperation : Prop :=
  ∀ (cfg : BitVec 40) (s : State), s.busy = false → s.xstate = .xIdle → cfgPackType cfg ≠ 3#2 →
    exec (.startWrite cfg) s = .next
      { s with
        scfg := cfg, diag := 0, busy := true, addr := 0, tidx := 0, tsize := 0, linebuf := [], lineOvf := false,
        opkind := .write, xstate := .wrCheck, timer := false, drainLeft := 0, rdSizeBytes := [], rdPending := none } ∧
    exec (.startRead cfg) s = .next
      { s with
        scfg := cfg, diag := 0, busy := true, addr := 0, tidx := 0, tsize := 0, ffrun := 0, linebuf := [],
        lineOvf := false, opkind := .read, xstate := .rdInit, timer := false, drainLeft := 0, rdSizeBytes := [],
        rdPending := none }

/-- R233, R231, R236: the control lines start an operation with the SCFG held, or end the session; where the
recogniser does not run they have no effect (log entry 21). The model's choices: DIAG is left (log entry 34), the
model's own drainLeft, rdSizeBytes and rdPending are cleared (log entry 5), and an XXExit is answered on HRSP (log
entry 28). -/
def Obligations.ControlLinesEffect : Prop :=
  ∀ s : State,
    (s.xstate = .xIdle → s.busy = false →
      exec .lineXXWrite s = .next
        { s with
          busy := true, addr := 0, tidx := 0, tsize := 0, linebuf := [], lineOvf := false, opkind := .write,
          xstate := .wrCheck, timer := false, drainLeft := 0, rdSizeBytes := [], rdPending := none } ∧
      exec .lineXXRead s = .next
        { s with
          busy := true, addr := 0, tidx := 0, tsize := 0, ffrun := 0, linebuf := [], lineOvf := false, opkind := .read,
          xstate := .rdInit, timer := false, drainLeft := 0, rdSizeBytes := [], rdPending := none } ∧
      exec .lineXXExit s = .next
        { s with
          status := 0x00, busy := false, hrsp := { status := 0x00, diag := s.diag, result := .none }, chOpen := false,
          xstate := .xClosed, linebuf := [], lineOvf := false, srcBind := none, dstBind := none, timer := false }) ∧
    (s.xstate ≠ .xIdle ∨ s.busy = true →
      exec .lineXXWrite s = .next s ∧ exec .lineXXRead s = .next s ∧ exec .lineXXExit s = .next s)

/-- R232, R233, R133: LINE_STEP completes in every state of X_IDLE with BUSY = 0, and what it does with a transport
error, no event, a byte, an overlong line, a line feed, the three control lines, and every other line, the empty one
among them. The model's choices: no event leaves the state (log entry 22), HRSP carries CHANNEL_ERROR and the OK of
XXExit (log entry 28), DIAG is left (log entry 34), and the model's own fields are cleared at an operation's entry
(log entry 5). -/
def Obligations.LineStepEffect : Prop :=
  ∀ s : State, s.xstate = .xIdle → s.busy = false →
    (∃ t, exec .lineStep s = .next t) ∧
    (s.chErr = true → exec .lineStep s = .next
      { s with
        status := 0x20, hrsp := { status := 0x20, diag := s.diag, result := .none }, chOpen := false,
        xstate := .xClosed, linebuf := [], lineOvf := false, srcBind := none, dstBind := none, timer := false }) ∧
    (s.chErr = false → s.rxq = [] → exec .lineStep s = .next s) ∧
    (∀ b rest, s.chErr = false → s.rxq = b :: rest →
      (b ≠ 0x0A#8 → s.linebuf.length < lineMax Config.params →
        exec .lineStep s = .next { s with rxq := rest, linebuf := s.linebuf ++ [b] }) ∧
      (b ≠ 0x0A#8 → lineMax Config.params ≤ s.linebuf.length →
        exec .lineStep s = .next { s with rxq := rest, lineOvf := true }) ∧
      (b = 0x0A#8 → s.lineOvf = true →
        exec .lineStep s = .next { s with rxq := rest, linebuf := [], lineOvf := false }) ∧
      (∀ line, b = 0x0A#8 → s.lineOvf = false →
        line = (if s.linebuf.getLast? = some 0x0D#8 then s.linebuf.dropLast else s.linebuf) →
        exec .lineStep s = .next
          (if line = [0x58#8, 0x58#8, 0x57#8, 0x72#8, 0x69#8, 0x74#8, 0x65#8] then
            { s with
              rxq := rest, busy := true, addr := 0, tidx := 0, tsize := 0, linebuf := [], lineOvf := false,
              opkind := .write, xstate := .wrCheck, timer := false, drainLeft := 0, rdSizeBytes := [],
              rdPending := none }
           else if line = [0x58#8, 0x58#8, 0x52#8, 0x65#8, 0x61#8, 0x64#8] then
            { s with
              rxq := rest, busy := true, addr := 0, tidx := 0, tsize := 0, ffrun := 0, linebuf := [],
              lineOvf := false, opkind := .read, xstate := .rdInit, timer := false, drainLeft := 0, rdSizeBytes := [],
              rdPending := none }
           else if line = [0x58#8, 0x58#8, 0x45#8, 0x78#8, 0x69#8, 0x74#8] then
            { s with
              rxq := rest, status := 0x00, hrsp := { status := 0x00, diag := s.diag, result := .none },
              chOpen := false, xstate := .xClosed, linebuf := [], lineOvf := false, srcBind := none, dstBind := none,
              timer := false }
           else { s with rxq := rest, linebuf := [], lineOvf := false })))

/-! Refusals -/

/-- R266, R267: while BUSY = 1 every host command is answered BAD_COMMAND on HRSP and changes nothing, STATUS and DIAG
neither (log entry 12): as an instruction, and as a command that the host offers, whatever its opcode, which is
answered at once and not held. -/
def Obligations.BusyRefusesEveryCommand : Prop :=
  (∀ (i : Instr) (s : State), isHostCommand i = true → s.busy = true →
    exec i s = .next { s with hrsp := { status := 0x32, diag := s.diag, result := .none } }) ∧
  (∀ (c : HostCmd) (rest : List Turn) (s : State), s.busy = true → s.sched = .env (.hostCommand c) :: rest →
    step s = .next { s with sched := rest, hrsp := { status := 0x32, diag := s.diag, result := .none } })

/-- R266, R267: the refusals for an illegal state, a wrong operand length and PACK_TYPE = 3, in this order; DIAG is
cleared (log entry 13). -/
def Obligations.RefusalsInOrder : Prop :=
  ∀ (s : State) (cfg : BitVec 40), s.busy = false →
    (∀ src dst, s.xstate ≠ .xClosed → exec (.sessionOpen src dst cfg) s = .next (answered s 0x32 .none)) ∧
    (s.xstate ≠ .xIdle → exec (.startWrite cfg) s = .next (answered s 0x32 .none) ∧
      exec (.startRead cfg) s = .next (answered s 0x32 .none) ∧ exec .sessionClose s = .next (answered s 0x32 .none)) ∧
    (∀ h : List Byte, h.length ≠ 10 → exec (.hdrParse h) s = .next (answered s 0x32 .none) ∧
      exec (.csumCheck h) s = .next (answered s 0x32 .none) ∧ exec (.hdrPatch h cfg) s = .next (answered s 0x32 .none) ∧
      ∀ recs tail dst, exec (.encode { hdr := h, recs := recs, tail := tail } cfg dst) s = .next (answered s 0x32 .none)) ∧
    exec (.frameClassify []) s = .next (answered s 0x32 .none) ∧
    (cfgPackType cfg = 3#2 →
      (∀ h : List Byte, h.length = 10 → exec (.hdrPatch h cfg) s = .next (answered s 0x30 .none) ∧
        ∀ recs tail dst, exec (.encode { hdr := h, recs := recs, tail := tail } cfg dst) s = .next (answered s 0x30 .none)) ∧
      (∀ src dst, s.xstate = .xClosed → exec (.sessionOpen src dst cfg) s = .next (answered s 0x30 .none)) ∧
      (s.xstate = .xIdle → exec (.startWrite cfg) s = .next (answered s 0x30 .none) ∧
        exec (.startRead cfg) s = .next (answered s 0x30 .none)))

/-- R130: a command with an unassigned opcode is refused with BAD_COMMAND; DIAG is cleared (log entry 13). -/
def Obligations.UnassignedOpcodeRefused : Prop :=
  ∀ (c : HostCmd) (rest : List HostCmd) (s : State), ready s = true → lineEvent s = false → s.hcmd = c :: rest →
    c.opcode.toNat ∉ [0x01, 0x02, 0x03, 0x04, 0x05, 0x06, 0x07, 0x08, 0x10, 0x11, 0x20, 0x21] →
    step s = .next { answered s 0x32 .none with hcmd := rest }

/-! Isolation -/

/-- R237: a codec command in X_IDLE, run to its end, leaves the registers of the transfer engine and the channel. -/
def Obligations.CodecLeavesTransfer : Prop :=
  ∀ (i : Instr) (n : Nat) (s s1 t : State), isCodecCommand i = true → s.xstate = .xIdle → s.busy = false → s.sched = [] →
    exec i s = .next s1 → runBusy n s1 = .next t →
    t.xstate = .xIdle ∧ t.scfg = s.scfg ∧ t.addr = s.addr ∧ t.tsize = s.tsize ∧ t.tidx = s.tidx ∧ t.ffrun = s.ffrun ∧
    t.lastTx = s.lastTx ∧ t.opkind = s.opkind ∧ t.linebuf = s.linebuf ∧ t.lineOvf = s.lineOvf ∧ t.rxq = s.rxq ∧
    t.txq = s.txq ∧ t.chOpen = s.chOpen ∧ t.srcBind = s.srcBind ∧ t.dstBind = s.dstBind

/-- R274, R259: a step of a transfer operation changes no register of the codec but CSA, and no buffer of the host but
the bound sink. -/
def Obligations.TransferLeavesCodec : Prop :=
  ∀ s t : State, s.xstate.inOperation = true → s.sched = [] → step s = .next t →
    t.wstate = s.wstate ∧ t.cur = s.cur ∧ t.size = s.size ∧ t.nShort = s.nShort ∧ t.nLong = s.nLong ∧ t.nBad = s.nBad ∧
    t.hdr = s.hdr ∧ t.diag = s.diag ∧ t.endAddr = s.endAddr ∧ t.endValid = s.endValid ∧ t.cfg = s.cfg ∧ t.reg = s.reg ∧
    t.recs = s.recs ∧ t.scfg = s.scfg ∧ t.src = s.src ∧ t.sources = s.sources ∧
    ∀ r i, s.dstBind ≠ some r → Memory.read (sinkOf t r) i = Memory.read (sinkOf s r) i

/-! Write operation -/

/-- R238, R276: the check of the source, its three aborts in their order, and the drain with the bytes RXQ holds. The
check is one step (log entry 41); the drain's count is the model's own (log entries 5, 27), and HRSP carries the abort
of a line-started write too (log entry 28). -/
def Obligations.WriteCheckOutcomes : Prop :=
  ∀ (s : State) (r : Nat) (m : List Byte), s.sched = [] → s.xstate = .wrCheck → s.srcBind = some r →
    m = Memory.bytes (Store.get s.sources r) →
    ∃ abort : Byte → State,
      (∀ code, abort code =
        { s with
          status := code, busy := false, hrsp := { status := code, diag := s.diag, result := .none }, xstate := .xIdle,
          timer := false }) ∧
      step s = .next
        (if m.length < 6 ∨ m.take 3 ≠ [0x4F#8, 0x50#8, 0x4B#8] then abort 0x13
         else if 0xFFFF < (be24 (m.getD 3 0) (m.getD 4 0) (m.getD 5 0)).toNat then abort 0x12
         else if m.length - 6 < (be24 (m.getD 3 0) (m.getD 4 0) (m.getD 5 0)).toNat then abort 0x02
         else
          { s with
            tsize := be24 (m.getD 3 0) (m.getD 4 0) (m.getD 5 0), xstate := .wrDrain, drainLeft := s.rxq.length })

/-- R239, R240: a drain step discards one byte; the token is sent byte by byte, then the two size bytes, high first,
and no echo is taken for them. The model's choices: the steps (log entry 27), a token of at most 65536 bytes (log
entry 2), TIDX after the last size byte (log entry 42), and HRSP at the end of a write with TSIZE = 0, also a
line-started one (log entry 28). -/
def Obligations.DrainTokenAndSize : Prop :=
  ∀ s : State, s.sched = [] → s.chErr = false →
    (∀ b rest k, s.xstate = .wrDrain → s.drainLeft = k + 1 → s.rxq = b :: rest →
      step s = .next { s with rxq := rest, drainLeft := k }) ∧
    (s.xstate = .wrDrain → s.drainLeft = 0 → step s = .next { s with xstate := .wrToken, tidx := 0 }) ∧
    (∀ b, s.xstate = .wrToken → (writeToken Config.params)[s.tidx.toNat]? = some b →
      step s = .next
        (if s.tidx.toNat + 1 < (writeToken Config.params).length then
          { s with txq := s.txq ++ [b], tidx := s.tidx + 1 }
         else { s with txq := s.txq ++ [b], xstate := .wrSize, tidx := 0 })) ∧
    (s.xstate = .wrSize → s.tidx = 0 →
      step s = .next { s with txq := s.txq ++ [s.tsize.extractLsb' 8 8], tidx := 1 }) ∧
    (s.xstate = .wrSize → s.tidx = 1 → s.addr.toNat < s.tsize.toNat →
      step s = .next { s with txq := s.txq ++ [s.tsize.extractLsb' 0 8], csa := 0, xstate := .wrSend }) ∧
    (s.xstate = .wrSize → s.tidx = 1 → s.tsize.toNat ≤ s.addr.toNat →
      step s = .next
        { s with
          txq := s.txq ++ [s.tsize.extractLsb' 0 8], csa := 0, xstate := .xIdle, status := 0x00, busy := false,
          hrsp := { status := 0x00, diag := s.diag, result := .none } })

/-- R241, R242, R243, R259 (4), R288: a payload byte is patched by its address, fed to CSA below address 8 and sent
(the read and the Tx in one step: log entry 41); then its echo decides. A transport error at the Tx of WR_SEND ends
the session with the byte fed and LAST_TX written; one in WR_DRAIN with bytes left, WR_TOKEN, WR_SIZE, WR_ECHO or
RD_SIZE ends it too. HRSP carries the end of a line-started operation too (log entry 28). -/
def Obligations.SendAndEcho : Prop :=
  ∀ (s : State), s.sched = [] →
    (∀ (r : Nat) (b : Byte), s.xstate = .wrSend → s.srcBind = some r →
      Memory.read (Store.get s.sources r) (6 + s.addr.toNat) = some b →
      ∃ (v : Byte) (fed : BitVec 16),
        v = (if s.addr = 0 then patchId b s.scfg
             else if s.addr = 1 then (if cfgSzOvrEn s.scfg = true then cfgSzOvr s.scfg else b)
             else if s.addr = 8 ∧ cfgRecompute s.scfg = true then hi8 s.csa
             else if s.addr = 9 ∧ cfgRecompute s.scfg = true then lo8 s.csa
             else b) ∧
        fed = (if s.addr.toNat < 8 then
            BitVec.ofNat 16 (s.csa.toNat + (if s.addr.toNat % 2 = 0 then v.toNat * 256 else v.toNat))
          else s.csa) ∧
        (s.chErr = false →
          step s = .next { s with txq := s.txq ++ [v], lastTx := v, xstate := .wrEcho, csa := fed }) ∧
        (s.chErr = true →
          step s = .next
            { s with
              lastTx := v, csa := fed, status := 0x20, busy := false,
              hrsp := { status := 0x20, diag := s.diag, result := .none }, chOpen := false, xstate := .xClosed,
              linebuf := [], lineOvf := false, srcBind := none, dstBind := none, timer := false })) ∧
    (∀ (e : Byte) (rest : List Byte), s.xstate = .wrEcho → s.chErr = false → s.rxq = e :: rest →
      (e = s.lastTx → (s.addr + 1).toNat < s.tsize.toNat →
        step s = .next { s with rxq := rest, timer := false, addr := s.addr + 1, xstate := .wrSend }) ∧
      (e = s.lastTx → s.tsize.toNat ≤ (s.addr + 1).toNat →
        step s = .next
          { s with
            rxq := rest, timer := false, addr := s.addr + 1, xstate := .xIdle, status := 0x00, busy := false,
            hrsp := { status := 0x00, diag := s.diag, result := .none } }) ∧
      (e ≠ s.lastTx →
        step s = .next
          { s with
            rxq := rest, timer := false, xstate := .xIdle, status := 0x11, busy := false,
            hrsp := { status := 0x11, diag := s.diag, result := .none } })) ∧
    (s.xstate = .wrEcho → s.chErr = false → s.rxq = [] → step s = .next { s with timer := true }) ∧
    (s.chErr = true →
      s.xstate = .wrEcho ∨ s.xstate = .rdSize ∨ s.xstate = .wrToken ∨ s.xstate = .wrSize ∨
        s.xstate = .wrDrain ∧ s.drainLeft ≠ 0 →
      step s = .next
        { s with
          status := 0x20, busy := false, hrsp := { status := 0x20, diag := s.diag, result := .none }, chOpen := false,
          xstate := .xClosed, linebuf := [], lineOvf := false, srcBind := none, dstBind := none, timer := false })

/-- R127, R242, R244: a write to a peer that echoes sends the token, the size high and low, and the image with its
header patched as HDR_PATCH patches it, and ends with STATUS OK and ADDR = TSIZE. The token has at most 65536 bytes
(log entry 2). -/
def Obligations.WriteSendsPatchedImage : Prop :=
  ∀ (s : State) (r : Nat) (m img : List Byte), s.sched = [] → s.busy = true → s.xstate = .wrCheck → s.addr = 0 →
    s.chErr = false → s.rxq = [] → s.timer = false → s.srcBind = some r → Store.wf s.sources = true →
    m = Memory.bytes (Store.get s.sources r) → 6 ≤ m.length → m.take 3 = [0x4F#8, 0x50#8, 0x4B#8] →
    img = (m.drop 6).take (containerSize m).toNat → img.length = (containerSize m).toNat → img.length ≤ 0xFFFF →
    ∃ n t, runEcho n s = .next t ∧ t.busy = false ∧ t.status = 0x00 ∧ t.xstate = .xIdle ∧ t.addr.toNat = img.length ∧
      t.rxq = [] ∧
      t.txq = s.txq ++ writeToken Config.params ++
        [BitVec.ofNat 8 (img.length / 256), BitVec.ofNat 8 (img.length % 256)] ++ sentImage img s.scfg s

/-! Read operation -/

/-- R248, R249: RD_INIT leaves the sink with the prefix alone (in one step: log entry 41); three size bytes are taken
and neither echoed nor written. They stand in the model's own rdSizeBytes (log entry 5), and TIDX stays 2 after the
third (log entry 42). -/
def Obligations.ReadPrefixAndSizeBytes : Prop :=
  ∀ s : State, s.sched = [] →
    (∀ r, s.xstate = .rdInit → s.dstBind = some r → Store.wf s.sinks = true →
      ∃ t, step s = .next t ∧
        t = { s with sinks := t.sinks, xstate := .rdSize, tidx := 0, rdSizeBytes := [] } ∧
        Memory.bytes (sinkOf t r) = [0x4F#8, 0x50#8, 0x4B#8, 0x00#8, 0x00#8, 0x00#8] ∧
        ∀ q i, q ≠ r → Memory.read (sinkOf t q) i = Memory.read (sinkOf s q) i) ∧
    (∀ b rest, s.xstate = .rdSize → s.chErr = false → s.rxq = b :: rest →
      (s.rdSizeBytes.length < 2 → step s = .next
        { s with rxq := rest, timer := false, rdSizeBytes := s.rdSizeBytes ++ [b], tidx := s.tidx + 1 }) ∧
      (∀ r0 r1, s.rdSizeBytes = [r0, r1] → step s = .next
        { s with rxq := rest, timer := false, rdSizeBytes := [r0, r1, b], tsize := be24 r0 r1 b, xstate := .rdWait })) ∧
    (s.xstate = .rdSize → s.chErr = false → s.rxq = [] → step s = .next { s with timer := true })

/-- R251 to R256, R277, R288: the payload loop one action at a time. Before each await the fixed-size or
SENTINEL_BOUNDED stop, then the PACK_TOO_LARGE ceiling, whatever RXQ holds; else the await in either mode: a transport
error ends the session, a queued byte is taken, or the timer is armed. A byte taken is echoed, appended and counted,
with the retraction at NUM_FF_CHK; a transport error at its echo ends the session with the byte kept in DST (R272; log
entry 11). RD_FINISH patches the size (one step: log entry 41). The held byte is the model's own (log entry 5), and
HRSP carries the end of a line-started read too (log entry 28). -/
def Obligations.ReadPayloadSteps : Prop :=
  ∀ (s : State) (r : Nat), s.sched = [] → s.dstBind = some r → Store.wf s.sinks = true →
    (s.xstate = .rdWait → s.rdPending = none →
      ∃ w : State,
        w = (if s.chErr = true then
            { s with
              status := 0x20, busy := false, hrsp := { status := 0x20, diag := s.diag, result := .none },
              chOpen := false, xstate := .xClosed, linebuf := [], lineOvf := false, srcBind := none, dstBind := none,
              timer := false }
          else match s.rxq with
            | [] => { s with timer := true }
            | q :: rest => { s with rxq := rest, timer := false, rdPending := some q }) ∧
        step s = .next
          (if (cfgTermMode s.scfg = false ∧ min (cfgTargetLen s.scfg).toNat s.tsize.toNat ≤ s.addr.toNat) ∨
              (cfgTermMode s.scfg = true ∧ Config.params.sentinelBounded = true ∧ s.tsize.toNat ≤ s.addr.toNat) then
            { s with xstate := .rdFinish }
           else if cfgTermMode s.scfg = true ∧ s.addr = 0xFFFFFF#24 then
            { s with
              status := 0x12, busy := false, hrsp := { status := 0x12, diag := s.diag, result := .none },
              xstate := .xIdle, timer := false }
           else w)) ∧
    (∀ q, s.xstate = .rdWait → s.rdPending = some q → s.chErr = true →
      ∃ t, step s = .next t ∧
        t = { s with
              sinks := t.sinks, rdPending := none, status := 0x20, busy := false,
              hrsp := { status := 0x20, diag := s.diag, result := .none }, chOpen := false, xstate := .xClosed,
              linebuf := [], lineOvf := false, srcBind := none, dstBind := none, timer := false } ∧
        Memory.bytes (sinkOf t r) = Memory.bytes (sinkOf s r) ++ [q] ∧
        ∀ k i, k ≠ r ∨ i < (sinkOf s r).length → Memory.read (sinkOf t k) i = Memory.read (sinkOf s k) i) ∧
    (∀ q, s.xstate = .rdWait → s.rdPending = some q → s.chErr = false →
      ∃ (t : State) (run : Byte), step s = .next t ∧
        run = (if q = 0xFF#8 then BitVec.ofNat 8 (min 255 (s.ffrun.toNat + 1)) else 0) ∧
        t = { s with
              txq := s.txq ++ [q]
              sinks := t.sinks
              rdPending := none
              ffrun := run
              addr :=
                if cfgTermMode s.scfg = true ∧ run = numFfChk Config.params then
                  s.addr + 1 - (numFfChk Config.params - 1).zeroExtend 24
                else s.addr + 1
              xstate := if cfgTermMode s.scfg = true ∧ run = numFfChk Config.params then .rdFinish else .rdWait } ∧
        Memory.bytes (sinkOf t r) = Memory.bytes (sinkOf s r) ++ [q] ∧
        ∀ k i, k ≠ r ∨ i < (sinkOf s r).length → Memory.read (sinkOf t k) i = Memory.read (sinkOf s k) i) ∧
    (s.xstate = .rdFinish → 6 + s.addr.toNat ≤ (sinkOf s r).length →
      ∃ t, step s = .next t ∧
        t = { s with
              sinks := t.sinks, xstate := .xIdle, status := 0x00, busy := false,
              hrsp := { status := 0x00, diag := s.diag, result := .none } } ∧
        Memory.bytes (sinkOf t r) =
          (if Config.params.truncateOnRetract = true then
            ((Memory.bytes (sinkOf s r)).take 3 ++ bytes24 s.addr ++ (Memory.bytes (sinkOf s r)).drop 6).take
              (6 + s.addr.toNat)
           else (Memory.bytes (sinkOf s r)).take 3 ++ bytes24 s.addr ++ (Memory.bytes (sinkOf s r)).drop 6) ∧
        ∀ k i, k ≠ r → Memory.read (sinkOf t k) i = Memory.read (sinkOf s k) i)

/-- R253, R129, R256: a fixed-size read of queued bytes captures exactly min(TARGET_LEN, TSIZE) of them, echoes them,
and leaves the rest in RXQ. -/
def Obligations.FixedReadCaptures : Prop :=
  ∀ (s : State) (r : Nat) (r0 r1 r2 : Byte) (qs rest : List Byte), s.sched = [] → s.busy = true → s.xstate = .rdInit →
    s.addr = 0 → s.ffrun = 0 → s.rdPending = none → s.timer = false → s.chErr = false → s.dstBind = some r →
    Store.wf s.sinks = true → cfgTermMode s.scfg = false → s.rxq = [r0, r1, r2] ++ qs ++ rest →
    qs.length = min (cfgTargetLen s.scfg).toNat (be24 r0 r1 r2).toNat →
    ∃ n t, runBusy n s = .next t ∧ t.busy = false ∧ t.status = 0x00 ∧ t.xstate = .xIdle ∧ t.addr.toNat = qs.length ∧
      Memory.bytes (sinkOf t r) = [0x4F#8, 0x50#8, 0x4B#8] ++ bytes24 (BitVec.ofNat 24 qs.length) ++ qs ∧
      t.txq = s.txq ++ qs ∧ t.rxq = rest

/-- R254, R255, R256: a sentinel read ends with the first run of NUM_FF_CHK bytes 0xFF, records the length up to the
first of them, and keeps or removes the surplus as TRUNCATE_ON_RETRACT says. -/
def Obligations.SentinelReadRetracts : Prop :=
  ∀ (s : State) (r : Nat) (r0 r1 r2 : Byte) (qs rest : List Byte) (len : Nat), s.sched = [] → s.busy = true →
    s.xstate = .rdInit → s.addr = 0 → s.ffrun = 0 → s.rdPending = none → s.timer = false → s.chErr = false →
    s.dstBind = some r → Store.wf s.sinks = true → cfgTermMode s.scfg = true → s.rxq = [r0, r1, r2] ++ qs ++ rest →
    qs.length ≤ 0xFFFFFF → (Config.params.sentinelBounded = true → qs.length ≤ (be24 r0 r1 r2).toNat) →
    ffTail qs = (numFfChk Config.params).toNat →
    (∀ j, j < qs.length → ffTail (qs.take j) < (numFfChk Config.params).toNat) →
    len + ((numFfChk Config.params).toNat - 1) = qs.length →
    ∃ n t, runBusy n s = .next t ∧ t.busy = false ∧ t.status = 0x00 ∧ t.xstate = .xIdle ∧ t.addr.toNat = len ∧
      Memory.bytes (sinkOf t r) =
        [0x4F#8, 0x50#8, 0x4B#8] ++ bytes24 (BitVec.ofNat 24 len) ++
          (if Config.params.truncateOnRetract = true then qs.take len else qs) ∧
      t.txq = s.txq ++ qs ∧ t.rxq = rest

/-! Events -/

/-- R262, R264: a timer that expires in a wait with nothing to take aborts with TIMEOUT; anywhere else it does nothing
(log entry 36). HRSP carries the TIMEOUT of a line-started operation too (log entry 28). -/
def Obligations.TimerExpiry : Prop :=
  ∀ (s : State) (rest : List Turn), s.sched = .env .timerExpires :: rest →
    (s.timer = true → s.rxq = [] → s.chErr = false → s.xstate.inOperation = true →
      step s = .next
        { s with
          sched := rest, status := 0x10, busy := false, hrsp := { status := 0x10, diag := s.diag, result := .none },
          xstate := .xIdle, timer := false }) ∧
    (s.timer = false ∨ s.rxq ≠ [] ∨ s.chErr = true → step s = .next { s with sched := rest })

/-! The whole machine -/

/-- Every step keeps the invariant. -/
def Obligations.StepKeepsInvariant : Prop :=
  ∀ s t : State, Inv Config.params s → step s = .next t → Inv Config.params t

/-- Under the invariant a step answers a next state, but where the host changes a buffer bound to a running operation
(log entry 17). -/
def Obligations.StepStopsOnlyOnHostDuty : Prop :=
  ∀ s : State, Inv Config.params s → hostKeepsDuty s = true → ∃ t, step s = .next t

/-- A step performs the instruction that its code decodes to: a command at the head of HCMD, the frame at CUR, or the
control line that a line feed ends (log entry 9). -/
def Obligations.StepRunsDecoded : Prop :=
  ∀ (i : Instr) (s : State), s.sched = [] → s.xstate.inOperation = false →
    (∀ c rest, s.busy = false → s.xstate = .xClosed ∨ lineEvent s = false → s.hcmd = c :: rest →
      decode (.host c) = .ok i → step s = exec i { s with hcmd := rest }) ∧
    (s.busy = true → s.wstate = .wRecords → step s = exec .walkStep s) ∧
    (∀ bytes, s.busy = true → s.wstate = .wRecords → imgBytes s s.cur.toNat bytes.length = .ok bytes →
      decode (.frame bytes) = .ok i → step s = exec i s) ∧
    (∀ rest, s.busy = false → s.xstate = .xIdle → s.chErr = false → s.rxq = 0x0A#8 :: rest → s.lineOvf = false →
      decode (.line (stripCr s.linebuf)) = .ok i →
      step s = exec i { s with rxq := rest, linebuf := [], lineOvf := false })

/-- Decoding the code of a well-formed instruction gives the instruction back. -/
def Obligations.DecodeInvertsEncode : Prop := ∀ i : Instr, wellFormed i = true → decode (encode i) = .ok i

/-- Words written out from the encoding tables decode to the instructions they stand for. That decodeTableWord reads a
48-bit or 56-bit word with its first byte most significant is log entry 32. -/
def Obligations.SampleWordsDecode : Prop :=
  decode (.frame [0xFF#8]) = .ok .endFrame ∧
  decode (.frame [0x10#8, 0xFF#8]) = .ok (.badFrame 0x10) ∧
  decode (.frame [0x02#8, 0x80#8, 0x01#8, 0x10#8]) = .ok (.longFrame 0x02 0x0110) ∧
  decode (.frame [0x03#8, 0x95#8]) = .ok (.shortFrame 0x03 0x95) ∧
  decode (.kind 0x81#8 false 0x09#8) = .ok (.kindDfdecl false 0x09) ∧
  decode (.kind 0x95#8 true 0x03#8) = .ok (.kindData90 true 0x5 0x03) ∧
  decodeTableWord 8 0x21 = some .sessionClose ∧
  decodeTableWord 56 0x58585772697465 = some .lineXXWrite ∧
  decodeTableWord 48 0x585852656164 = some .lineXXRead ∧
  decodeTableWord 8 0x09 = none
end

