-- ==== Sys2Proof/Laws/Memory.lean ====
section
/-! SUPPORT. Laws of the byte-string memories and of the host's buffers: every operation keeps the canonical form, and what
a read gives after each of them. -/

namespace Sys2Proof.Machine

/-! The memory of a byte string -/

theorem ofBytesAt_length (a : Nat) (bs : List Byte) : (Memory.ofBytesAt a bs).length = bs.length := by
  induction bs generalizing a with
  | nil => rfl
  | cons b bs ih => simp [Memory.ofBytesAt, ih]

theorem ofBytesAt_keys (a : Nat) (bs : List Byte) : (Memory.ofBytesAt a bs).map (fun c => c.1) = List.range' a bs.length := by
  induction bs generalizing a with
  | nil => rfl
  | cons b bs ih => simp [Memory.ofBytesAt, ih, List.range'_succ]

theorem ofBytesAt_bytes (a : Nat) (bs : List Byte) : (Memory.ofBytesAt a bs).map (fun c => c.2) = bs := by
  induction bs generalizing a with
  | nil => rfl
  | cons b bs ih => simp [Memory.ofBytesAt, ih]

theorem ofBytesAt_append (a : Nat) (xs ys : List Byte) :
    Memory.ofBytesAt a (xs ++ ys) = Memory.ofBytesAt a xs ++ Memory.ofBytesAt (a + xs.length) ys := by
  induction xs generalizing a with
  | nil => simp [Memory.ofBytesAt]
  | cons x xs ih => simp [Memory.ofBytesAt, ih, Nat.add_assoc, Nat.add_comm 1]

@[simp] theorem ofBytes_length (bs : List Byte) : (Memory.ofBytes bs).length = bs.length := ofBytesAt_length 0 bs

@[simp] theorem bytes_ofBytes (bs : List Byte) : Memory.bytes (Memory.ofBytes bs) = bs := ofBytesAt_bytes 0 bs

@[simp] theorem bytes_length (m : Memory) : (Memory.bytes m).length = m.length := by simp [Memory.bytes]

@[simp] theorem ofBytes_wf (bs : List Byte) : Memory.wf (Memory.ofBytes bs) = true := by
  simp [Memory.wf, Memory.ofBytes, ofBytesAt_keys, ofBytesAt_length, List.range_eq_range']

theorem eq_of_keys {m : Memory} {a : Nat} (h : m.map (fun c => c.1) = List.range' a m.length) :
    m = Memory.ofBytesAt a (Memory.bytes m) := by
  induction m generalizing a with
  | nil => rfl
  | cons c m ih =>
    simp only [List.map_cons, List.length_cons, List.range'_succ, List.cons.injEq] at h
    obtain ⟨k, b⟩ := c
    simp only at h
    obtain ⟨rfl, h⟩ := h
    simp only [Memory.bytes, List.map_cons, Memory.ofBytesAt, List.cons.injEq, true_and]
    exact ih h

/-- A canonical memory is the memory of its bytes: equal memories are equal data. -/
theorem wf_iff (m : Memory) : Memory.wf m = true ↔ m = Memory.ofBytes (Memory.bytes m) := by
  constructor
  · intro h
    apply eq_of_keys
    simpa [Memory.wf, List.range_eq_range'] using h
  · intro h
    rw [h]
    exact ofBytes_wf _

/-! Reads -/

theorem read_ofBytesAt (a i : Nat) (bs : List Byte) :
    Memory.read (Memory.ofBytesAt a bs) i = if a ≤ i then bs[i - a]? else none := by
  induction bs generalizing a with
  | nil => simp [Memory.ofBytesAt, Memory.read]
  | cons b bs ih =>
    simp only [Memory.ofBytesAt, Memory.read, ih]
    by_cases h : a = i
    · simp [h]
    · by_cases h2 : a ≤ i
      · have h3 : i - a = (i - (a + 1)) + 1 := by omega
        simp [h, h2, show a + 1 ≤ i by omega, h3]
      · simp [h, h2, show ¬ a + 1 ≤ i by omega]

@[simp] theorem read_ofBytes (bs : List Byte) (i : Nat) : Memory.read (Memory.ofBytes bs) i = bs[i]? := by
  simp [Memory.ofBytes, read_ofBytesAt]

/-- A read of a canonical memory gives the byte at that index, and no value at or past its length. -/
theorem read_of_wf {m : Memory} (h : Memory.wf m = true) (i : Nat) : Memory.read m i = (Memory.bytes m)[i]? := by
  have e := (wf_iff m).1 h
  calc Memory.read m i = Memory.read (Memory.ofBytes (Memory.bytes m)) i := by rw [← e]
    _ = _ := read_ofBytes _ _

/-! Appends -/

@[simp] theorem append_length (m : Memory) (b : Byte) : (Memory.append m b).length = m.length + 1 := by
  simp [Memory.append]

@[simp] theorem bytes_append (m : Memory) (b : Byte) : Memory.bytes (Memory.append m b) = Memory.bytes m ++ [b] := by
  simp [Memory.append, Memory.bytes]

theorem append_ofBytes (bs : List Byte) (b : Byte) : Memory.append (Memory.ofBytes bs) b = Memory.ofBytes (bs ++ [b]) := by
  simp [Memory.append, Memory.ofBytes, ofBytesAt_append, Memory.ofBytesAt, ofBytesAt_length]

theorem append_wf {m : Memory} (h : Memory.wf m = true) (b : Byte) : Memory.wf (Memory.append m b) = true := by
  rw [(wf_iff m).1 h, append_ofBytes]
  exact ofBytes_wf _

@[simp] theorem bytes_appendAll (m : Memory) (bs : List Byte) :
    Memory.bytes (Memory.appendAll m bs) = Memory.bytes m ++ bs := by
  induction bs generalizing m with
  | nil => simp [Memory.appendAll]
  | cons b bs ih => simp [Memory.appendAll, ih]

@[simp] theorem appendAll_length (m : Memory) (bs : List Byte) :
    (Memory.appendAll m bs).length = m.length + bs.length := by
  induction bs generalizing m with
  | nil => rfl
  | cons b bs ih => simp [Memory.appendAll, ih, Nat.add_assoc, Nat.add_comm 1]

theorem appendAll_wf {m : Memory} (h : Memory.wf m = true) (bs : List Byte) : Memory.wf (Memory.appendAll m bs) = true := by
  induction bs generalizing m with
  | nil => exact h
  | cons b bs ih => exact ih (append_wf h b)

theorem appendAll_ofBytes (xs ys : List Byte) : Memory.appendAll (Memory.ofBytes xs) ys = Memory.ofBytes (xs ++ ys) := by
  rw [(wf_iff _).1 (appendAll_wf (ofBytes_wf xs) ys)]
  simp

theorem read_concat (m : Memory) (k i : Nat) (b : Byte) (h : i ≠ k) : Memory.read (m ++ [(k, b)]) i = Memory.read m i := by
  induction m with
  | nil => simp [Memory.read, Ne.symm h]
  | cons c m ih => simp [Memory.read, ih]

/-- An append changes no byte below the old length. -/
theorem read_appendAll (m : Memory) (bs : List Byte) (i : Nat) (h : i < m.length) :
    Memory.read (Memory.appendAll m bs) i = Memory.read m i := by
  induction bs generalizing m with
  | nil => rfl
  | cons b bs ih =>
    rw [Memory.appendAll, ih (Memory.append m b) (by simp; omega)]
    exact read_concat m m.length i b (by omega)

/-! Overwrites and truncation -/

theorem write_ofBytesAt (a i : Nat) (bs : List Byte) (b : Byte) (h : a ≤ i) (hi : i - a < bs.length) :
    Memory.write (Memory.ofBytesAt a bs) i b = some (Memory.ofBytesAt a (bs.set (i - a) b)) := by
  induction bs generalizing a with
  | nil => simp at hi
  | cons c bs ih =>
    by_cases e : a = i
    · simp [Memory.ofBytesAt, Memory.write, e]
    · have h3 : i - a = (i - (a + 1)) + 1 := by omega
      rw [h3] at hi ⊢
      simp [Memory.ofBytesAt, Memory.write, e, ih (a + 1) (by omega) (by simpa using hi)]

/-- An overwrite below the length replaces that byte. -/
theorem write_ofBytes (bs : List Byte) (i : Nat) (b : Byte) (hi : i < bs.length) :
    Memory.write (Memory.ofBytes bs) i b = some (Memory.ofBytes (bs.set i b)) := by
  simpa [Memory.ofBytes] using write_ofBytesAt 0 i bs b (Nat.zero_le _) (by simpa using hi)

theorem write_wf {m m' : Memory} {i : Nat} {b : Byte} (h : Memory.wf m = true) (e : Memory.write m i b = some m') :
    Memory.wf m' = true ∧ m'.length = m.length := by
  induction m generalizing m' i with
  | nil => simp [Memory.write] at e
  | cons c m ih =>
    have keys : ∀ {m m' : Memory}, Memory.write m i b = some m' → m'.map (fun c => c.1) = m.map (fun c => c.1) := by
      intro m
      induction m with
      | nil => intro m' e; simp [Memory.write] at e
      | cons c m ih =>
        intro m' e
        obtain ⟨k, x⟩ := c
        simp only [Memory.write] at e
        split at e
        · simp only [Option.some.injEq] at e
          simp [← e]
        · simp only [Option.map_eq_some_iff] at e
          obtain ⟨m1, e1, rfl⟩ := e
          simp [ih e1]
    have k := keys e
    have l : m'.length = (c :: m).length := by simpa using congrArg List.length k
    refine ⟨?_, l⟩
    simp only [Memory.wf, k, l] at h ⊢
    exact h

theorem writeAll_ofBytes (xs ys : List Byte) (a : Nat) (h : a + ys.length ≤ xs.length) :
    Memory.writeAll (Memory.ofBytes xs) a ys = some (Memory.ofBytes (xs.take a ++ ys ++ xs.drop (a + ys.length))) := by
  induction ys generalizing xs a with
  | nil => simp [Memory.writeAll]
  | cons y ys ih =>
    simp only [List.length_cons] at h
    rw [Memory.writeAll, write_ofBytes xs a y (by omega)]
    simp only
    rw [ih (xs.set a y) (a + 1) (by simp; omega)]
    have h1 : (xs.set a y).take (a + 1) = xs.take a ++ [y] := by
      rw [List.take_succ_eq_append_getElem (by simp; omega)]
      simp [List.take_set_of_le]
    have h2 : (xs.set a y).drop (a + 1 + ys.length) = xs.drop (a + (y :: ys).length) := by
      rw [List.drop_set_of_lt (by omega)]
      congr 1
      simp only [List.length_cons]
      omega
    simp [h1, h2]

theorem writeAll_wf {m m' : Memory} {a : Nat} {bs : List Byte} (h : Memory.wf m = true)
    (e : Memory.writeAll m a bs = some m') : Memory.wf m' = true ∧ m'.length = m.length := by
  induction bs generalizing m a with
  | nil => simp only [Memory.writeAll, Option.some.injEq] at e; subst e; exact ⟨h, rfl⟩
  | cons b bs ih =>
    simp only [Memory.writeAll] at e
    split at e
    · simp at e
    · next m1 e1 =>
      obtain ⟨w, l⟩ := write_wf h e1
      obtain ⟨w', l'⟩ := ih w e
      exact ⟨w', l'.trans l⟩

theorem truncate_ofBytes (bs : List Byte) (n : Nat) (h : n ≤ bs.length) :
    Memory.truncate (Memory.ofBytes bs) n = some (Memory.ofBytes (bs.take n)) := by
  have e : Memory.ofBytesAt 0 bs = Memory.ofBytesAt 0 (bs.take n) ++ Memory.ofBytesAt (0 + (bs.take n).length) (bs.drop n) := by
    rw [← ofBytesAt_append, List.take_append_drop]
  simp only [Memory.truncate, ofBytes_length, h, if_true, Option.some.injEq]
  rw [Memory.ofBytes, e, List.take_append_of_le_length (by simp [ofBytesAt_length, h])]
  rw [List.take_of_length_le (by simp [ofBytesAt_length])]
  rfl

/-! The host's buffers -/

theorem store_get_set_same (st : Store) (r : Nat) (m : Memory) (h : m ≠ []) : Store.get (Store.set st r m) r = m := by
  have e : m.isEmpty = false := by cases m <;> simp_all
  induction st with
  | nil => simp [Store.set, Store.get, e]
  | cons c st ih =>
    obtain ⟨k, x⟩ := c
    simp only [Store.set, e]
    split
    · simp [Store.get]
    · split
      · simp_all [Store.get]
      · next h1 h2 => simp [Store.get, ih, Ne.symm h2]

theorem store_get_set_other (st : Store) (r q : Nat) (m : Memory) (h : q ≠ r) :
    Store.get (Store.set st r m) q = Store.get st q := by
  induction st with
  | nil => cases m <;> simp [Store.set, Store.get, Ne.symm h]
  | cons c st ih =>
    obtain ⟨k, x⟩ := c
    simp only [Store.set]
    split
    · cases m <;> simp [Store.get, Ne.symm h]
    · split
      · next h1 h2 => subst h2; cases m <;> simp [Store.get, Ne.symm h]
      · simp [Store.get, ih]

theorem store_get_below {st : Store} {lo r : Nat} (h : Store.wfFrom lo st = true) (hr : r < lo) : Store.get st r = [] := by
  induction st generalizing lo with
  | nil => rfl
  | cons c st ih =>
    obtain ⟨k, x⟩ := c
    simp only [Store.wfFrom, Bool.and_eq_true, decide_eq_true_eq] at h
    have hk : ¬ k = r := by omega
    simp only [Store.get, if_neg hk]
    exact ih h.2 (by omega)

theorem store_wfFrom_mono {st : Store} {lo lo' : Nat} (h : Store.wfFrom lo st = true) (hl : lo' ≤ lo) :
    Store.wfFrom lo' st = true := by
  cases st with
  | nil => rfl
  | cons c st =>
    obtain ⟨k, x⟩ := c
    simp only [Store.wfFrom, Bool.and_eq_true, decide_eq_true_eq] at h ⊢
    exact ⟨⟨⟨by omega, h.1.1.2⟩, h.1.2⟩, h.2⟩

theorem store_set_wfFrom {st : Store} {lo r : Nat} {m : Memory} (h : Store.wfFrom lo st = true) (hr : lo ≤ r)
    (hm : Memory.wf m = true) : Store.wfFrom lo (Store.set st r m) = true := by
  induction st generalizing lo with
  | nil => cases m <;> simp_all [Store.set, Store.wfFrom]
  | cons c st ih =>
    obtain ⟨k, x⟩ := c
    simp only [Store.wfFrom, Bool.and_eq_true, decide_eq_true_eq, Bool.not_eq_true'] at h
    obtain ⟨⟨⟨hk, hx⟩, hw⟩, ht⟩ := h
    simp only [Store.set]
    split
    · cases m <;> simp_all [Store.wfFrom]
    · split
      · cases m with
        | nil => simpa using store_wfFrom_mono ht (by omega)
        | cons => simp_all [Store.wfFrom]
      · simp only [Store.wfFrom, Bool.and_eq_true, decide_eq_true_eq, Bool.not_eq_true']
        exact ⟨⟨⟨hk, hx⟩, hw⟩, ih ht (by omega)⟩

/-- Replacing a buffer keeps the store canonical. -/
theorem store_set_wf {st : Store} {r : Nat} {m : Memory} (h : Store.wf st = true) (hm : Memory.wf m = true) :
    Store.wf (Store.set st r m) = true := store_set_wfFrom h (Nat.zero_le r) hm

theorem store_get_wf {st : Store} {lo r : Nat} (h : Store.wfFrom lo st = true) : Memory.wf (Store.get st r) = true := by
  induction st generalizing lo with
  | nil => rfl
  | cons c st ih =>
    obtain ⟨k, x⟩ := c
    simp only [Store.wfFrom, Bool.and_eq_true] at h
    simp only [Store.get]
    split
    · exact h.1.2
    · exact ih h.2

/-- In a canonical store the buffer set is the buffer read, also when it is empty. -/
theorem store_get_set {st : Store} {lo r : Nat} (h : Store.wfFrom lo st = true) (m : Memory) :
    Store.get (Store.set st r m) r = m := by
  cases m with
  | cons c m => exact store_get_set_same st r (c :: m) (by simp)
  | nil =>
    induction st generalizing lo with
    | nil => rfl
    | cons c st ih =>
      obtain ⟨k, x⟩ := c
      have h' := h
      simp only [Store.wfFrom, Bool.and_eq_true, decide_eq_true_eq] at h
      simp only [Store.set, List.isEmpty_nil, if_true]
      split
      · next hlt =>
        have hk : ¬ k = r := by omega
        simp only [Store.get, if_neg hk]
        exact store_get_below h.2 (by omega)
      · split
        · exact store_get_below h.2 (by omega)
        · next h1 h2 => simp only [Store.get, if_neg (Ne.symm h2)]; exact ih h.2

/-! The sinks of a state -/

/-- Appending to sink `r` appends to that sink's bytes. -/
theorem appendSink_bytes (s : State) (r : Nat) (bs : List Byte) (h : Store.wf s.sinks = true) :
    Memory.bytes (sinkOf (appendSink r bs s) r) = Memory.bytes (sinkOf s r) ++ bs := by
  simp [appendSink, setSink, sinkOf, store_get_set h]

/-- Appending to sink `r` changes no other sink. -/
theorem appendSink_other (s : State) (r q : Nat) (bs : List Byte) (h : q ≠ r) :
    sinkOf (appendSink r bs s) q = sinkOf s q := by
  simp [appendSink, setSink, sinkOf, store_get_set_other _ _ _ _ h]

theorem appendSink_wf (s : State) (r : Nat) (bs : List Byte) (h : Store.wf s.sinks = true) :
    Store.wf (appendSink r bs s).sinks = true := store_set_wf h (appendAll_wf (store_get_wf h) bs)

theorem setSink_wf (s : State) (r : Nat) (m : Memory) (h : Store.wf s.sinks = true) (hm : Memory.wf m = true) :
    Store.wf (setSink r m s).sinks = true := store_set_wf h hm

/-- The memories of the machine after reset are canonical. -/
theorem reset_memories : Memory.wf State.reset.src = true ∧ Store.wf State.reset.sources = true ∧
    Store.wf State.reset.sinks = true := ⟨rfl, rfl, rfl⟩

end Sys2Proof.Machine
end

