-- ==== Sys2Proof/Laws/Ops.lean ====
section
/-! SUPPORT. For each shared operation one lemma that says what it can do: proofs cite these instead of unfolding it. -/

namespace Sys2Proof.Machine

/-! Faults, channel, waits -/

theorem orFault_next {α : Type} {x : Except Fault α} {k : α → Answer} {t : State} :
    orFault x k = .next t ↔ ∃ v, x = .ok v ∧ k v = .next t := by
  cases x <;> simp [orFault]

theorem orFault_fault {α : Type} {x : Except Fault α} {k : α → Answer} {f : Fault} :
    orFault x k = .fault f ↔ x = .error f ∨ ∃ v, x = .ok v ∧ k v = .fault f := by
  cases x <;> simp [orFault]

/-- `Tx`: the session ends on a transport error, else the byte is queued and the rest goes on. -/
theorem transmit_next {b : Byte} {k : State → Answer} {s t : State} (h : transmit b k s = .next t) :
    (s.chErr = true ∧ t = sessionEnd .channelError s) ∨ (s.chErr = false ∧ k { s with txq := s.txq ++ [b] } = .next t) := by
  unfold transmit at h
  split at h
  · next e => simp only [Host.Outcome.next.injEq] at h; exact .inl ⟨e, h.symm⟩
  · next e => exact .inr ⟨by simpa using e, h⟩

theorem transmit_fault {b : Byte} {k : State → Answer} {s : State} {f : Fault} (h : transmit b k s = .fault f) :
    s.chErr = false ∧ k { s with txq := s.txq ++ [b] } = .fault f := by
  unfold transmit at h
  split at h
  · cases h
  · next e => exact ⟨by simpa using e, h⟩

/-- An await: a transport error ends the session, a queued byte is taken, else the timer is armed. -/
theorem awaitByte_next {k : Byte → State → Answer} {s t : State} (h : awaitByte k s = .next t) :
    (s.chErr = true ∧ t = sessionEnd .channelError s) ∨
    (s.chErr = false ∧ s.rxq = [] ∧ t = { s with timer := true }) ∨
    (s.chErr = false ∧ ∃ b rest, s.rxq = b :: rest ∧ k b { s with rxq := rest, timer := false } = .next t) := by
  unfold awaitByte at h
  split at h
  · next e => simp only [Host.Outcome.next.injEq] at h; exact .inl ⟨e, h.symm⟩
  · next e =>
    split at h
    · next b rest er => exact .inr (.inr ⟨by simpa using e, b, rest, er, h⟩)
    · next er => simp only [Host.Outcome.next.injEq] at h; exact .inr (.inl ⟨by simpa using e, er, h.symm⟩)

theorem awaitByte_fault {k : Byte → State → Answer} {s : State} {f : Fault} (h : awaitByte k s = .fault f) :
    s.chErr = false ∧ ∃ b rest, s.rxq = b :: rest ∧ k b { s with rxq := rest, timer := false } = .fault f := by
  unfold awaitByte at h
  split at h
  · cases h
  · next e =>
    split at h
    · next b rest er => exact ⟨by simpa using e, b, rest, er, h⟩
    · cases h

/-! Commands -/

/-- A command that no condition of R266 refuses runs its body from the accepted state. -/
theorem hostCommand_runs {legal formed ok : Bool} {body : State → Answer} {s : State} (hb : s.busy = false)
    (hl : legal = true) (hf : formed = true) (hc : ok = true) : hostCommand legal formed ok body s = body (accept s) := by
  simp [hostCommand, hb, hl, hf, hc]

/-- What a host command can do: the four refusals of R266 that are the machine's, or its body. -/
theorem hostCommand_cases (legal formed ok : Bool) (body : State → Answer) (s : State) :
    (s.busy = true ∧ hostCommand legal formed ok body s = .next (refuseBusy s)) ∨
    (s.busy = false ∧ (legal = false ∨ formed = false) ∧ hostCommand legal formed ok body s = .next (refuse .badCommand s)) ∨
    (s.busy = false ∧ legal = true ∧ formed = true ∧ ok = false ∧
      hostCommand legal formed ok body s = .next (refuse .badConfig s)) ∨
    (s.busy = false ∧ legal = true ∧ formed = true ∧ ok = true ∧ hostCommand legal formed ok body s = body (accept s)) := by
  cases h : s.busy <;> cases legal <;> cases formed <;> cases ok <;> simp [hostCommand, h]

/-! Aborts -/

@[simp] theorem raiseAbort_channel (s : State) : raiseAbort .channelError s = sessionEnd .channelError s := rfl

/-- An abort other than CHANNEL_ERROR writes STATUS, BUSY, HRSP, the timer, and XSTATE when an operation runs (R270). -/
theorem raiseAbort_other {c : Status} (h : c ≠ .channelError) (s : State) :
    raiseAbort c s =
      { s with
        status := statusCode c
        busy := false
        hrsp := { status := statusCode c, diag := s.diag, result := .none }
        xstate := if s.xstate.inOperation then .xIdle else s.xstate
        timer := false } := by
  simp [raiseAbort, h, finish]

/-! The image -/

/-- An image byte below SIZE is a byte of SRC six places further on (R64). -/
theorem imgByte_eq {s : State} (hw : Memory.wf s.src = true) {a : Nat} (ha : a < s.size.toNat)
    (hs : 6 + s.size.toNat ≤ s.src.length) :
    imgByte s a = .ok ((Memory.bytes s.src)[6 + a]'(by simp; omega)) := by
  have h : 6 + a < (Memory.bytes s.src).length := by simp; omega
  simp [imgByte, ha, srcByte, read_of_wf hw, List.getElem?_eq_getElem h]

theorem imgBytes_length {s : State} {a n : Nat} {bs : List Byte} (h : imgBytes s a n = .ok bs) : bs.length = n := by
  induction n generalizing a bs with
  | zero => simp only [imgBytes, Except.ok.injEq] at h; simp [← h]
  | succ n ih =>
    simp only [imgBytes] at h
    split at h
    · cases h
    · split at h
      · cases h
      · next e => simp only [Except.ok.injEq] at h; simp [← h, ih e]

/-- A run of image bytes below SIZE is a piece of SRC. -/
theorem imgBytes_eq {s : State} (hw : Memory.wf s.src = true) {a n : Nat} (ha : a + n ≤ s.size.toNat)
    (hs : 6 + s.size.toNat ≤ s.src.length) :
    imgBytes s a n = .ok (((Memory.bytes s.src).drop (6 + a)).take n) := by
  induction n generalizing a with
  | zero => simp [imgBytes]
  | succ n ih =>
    have hl : 6 + a < (Memory.bytes s.src).length := by simp; omega
    rw [imgBytes, imgByte_eq hw (by omega) hs]
    simp only
    rw [ih (by omega)]
    simp only [Except.ok.injEq]
    rw [List.drop_eq_getElem_cons hl, List.take_succ_cons]
    simp [Nat.add_assoc]

/-! The checksum unit: nothing but CSA and the outcome of CSA_CMP changes -/

theorem csaFeed_frame (i : Nat) (b : Byte) (s : State) : csaFeed i b s = { s with csa := (csaFeed i b s).csa } := by
  unfold csaFeed csaAddHigh csaAddLow
  split <;> rfl

theorem csaFeedAll_frame (i : Nat) (bs : List Byte) (s : State) :
    csaFeedAll i bs s = { s with csa := (csaFeedAll i bs s).csa } := by
  induction bs generalizing i s with
  | nil => rfl
  | cons b bs ih =>
    rw [csaFeedAll, ih, csaFeed_frame]

theorem csumBytes_frame (h : List Byte) (s : State) : csumBytes h s = { s with csa := (csumBytes h s).csa } := by
  rw [csumBytes, csaFeedAll_frame]
  rfl

theorem checkHeader_frame (p : Params) (h : List Byte) (s : State) :
    (checkHeader p h s).1 = { s with csa := (checkHeader p h s).1.csa, csMatch := (checkHeader p h s).1.csMatch } := by
  unfold checkHeader
  split
  · rfl
  · simp only [csaCompare]
    rw [csumBytes_frame]

theorem parseHeader_frame (p : Params) (h : List Byte) (s : State) :
    (parseHeader p h s).1 = { s with csa := (parseHeader p h s).1.csa, csMatch := (parseHeader p h s).1.csMatch } :=
  checkHeader_frame p h s

theorem patchHeader_frame (h : List Byte) (cfg : BitVec 40) (s : State) :
    (patchHeader h cfg s).1 = { s with csa := (patchHeader h cfg s).1.csa } := by
  unfold patchHeader
  split
  · exact csumBytes_frame _ _
  · rfl

theorem patchHeader_length {h : List Byte} (hl : h.length = 10) (cfg : BitVec 40) (s : State) :
    (patchHeader h cfg s).2.length = 10 := by
  unfold patchHeader patchedHead
  split <;> simp [hl]

/-! The registry and the record entries -/

/-- `short_entry` writes nothing but REG and DIAG (R184 to R186). -/
theorem shortEffect_frame (p : Params) (k : Kind) (type : Byte) (payload : List Byte) (s : State) :
    shortEffect p k type payload s =
      { s with reg := (shortEffect p k type payload s).reg, diag := (shortEffect p k type payload s).diag } := by
  unfold shortEffect
  split
  · split
    · split <;> rfl
    · rfl
  · unfold noteOwner; split <;> rfl
  · rfl

theorem frameBytes_descriptor_pos {d : FrameDesc} {bs : List Byte} (h : frameBytes d = some bs) : 1 ≤ bs.length := by
  cases d with
  | endF => simp only [frameBytes, Option.some.injEq] at h; simp [← h]
  | bad l => simp only [frameBytes] at h; split at h <;> simp_all; simp [← h]
  | long l p => simp only [frameBytes] at h; split at h <;> simp_all; simp [← h]
  | short t p => simp only [frameBytes] at h; split at h <;> simp_all; simp [← h]

/-! WALK_STEP -/

/-- Everything a WALK_STEP that completes can have done (R180). -/
theorem walkStep_cases {p : Params} {s t : State} (h : atFrame (walkFrame p) s = .next t) :
    s.wstate = .wRecords ∧ s.cur.toNat ≤ s.size.toNat ∧
    ((s.cur.toNat = s.size.toNat ∧ t = walkSizeMismatch s) ∨
     (imgByte s s.cur.toNat = .ok 0xFF#8 ∧ t = walkEnd s) ∨
     (s.cur.toNat < s.size.toNat ∧ t = walkTrunc s) ∨
     (∃ b, b ≠ 0xFF#8 ∧ imgByte s s.cur.toNat = .ok b ∧ imgByte s (s.cur.toNat + 1) = .ok 0xFF#8 ∧
        s.cur.toNat + 2 ≤ s.size.toNat ∧ t = walkBad b s) ∨
     (∃ b h l q, b ≠ 0xFF#8 ∧ imgByte s s.cur.toNat = .ok b ∧ imgByte s (s.cur.toNat + 1) = .ok 0x80#8 ∧
        imgByte s (s.cur.toNat + 2) = .ok h ∧ imgByte s (s.cur.toNat + 3) = .ok l ∧
        imgBytes s (s.cur.toNat + 4) (be16 h l).toNat = .ok q ∧
        s.cur.toNat + (4 + (be16 h l).toNat) ≤ s.size.toNat ∧ t = appendLong b (be16 h l) q s) ∨
     (∃ b y q, b ≠ 0xFF#8 ∧ y ≠ 0xFF#8 ∧ y ≠ 0x80#8 ∧ imgByte s s.cur.toNat = .ok b ∧
        imgByte s (s.cur.toNat + 1) = .ok y ∧ imgBytes s (s.cur.toNat + 2) b.toNat = .ok q ∧
        s.cur.toNat + (2 + b.toNat) ≤ s.size.toNat ∧ t = appendShort p (kindOf y b.toNat) b y q s)) := by
  unfold atFrame at h
  split at h
  · cases h
  next hw =>
  have hw : s.wstate = .wRecords := by simpa using hw
  split at h
  · next e => simp only [Host.Outcome.next.injEq] at h; exact ⟨hw, by omega, .inl ⟨e, h.symm⟩⟩
  next hne =>
  split at h
  · cases h
  next hle =>
  have hlt : s.cur.toNat < s.size.toNat := by omega
  refine ⟨hw, by omega, .inr ?_⟩
  simp only [walkFrame, orFault_next] at h
  obtain ⟨b, hb, h⟩ := h
  split at h
  · next e => subst e; simp only [Host.Outcome.next.injEq] at h; exact .inl ⟨hb, h.symm⟩
  next hbne =>
  refine .inr ?_
  split at h
  · next hf2 =>
    rw [frameFits, decide_eq_true_eq] at hf2
    simp only [orFault_next] at h
    obtain ⟨y, hy, h⟩ := h
    cases hc : classify b y with
    | endF => simp [classify, hbne] at hc; split at hc <;> simp_all; split at hc <;> simp_all
    | bad =>
      have ey : y = 0xFF#8 := by
        simp only [classify, hbne, if_false] at hc
        split at hc
        · assumption
        · split at hc <;> cases hc
      rw [hc] at h
      simp only [Host.Outcome.next.injEq] at h
      subst ey
      exact .inr (.inl ⟨b, hbne, hb, hy, by omega, h.symm⟩)
    | long =>
      have ey : y = 0x80#8 := by
        simp only [classify, hbne, if_false] at hc
        split at hc
        · cases hc
        · split at hc
          · assumption
          · cases hc
      rw [hc] at h
      simp only at h
      subst ey
      split at h
      · simp only [orFault_next] at h
        obtain ⟨u, hu, l, hl, h⟩ := h
        unfold walkLong at h
        split at h
        · next hf =>
          rw [frameFits, decide_eq_true_eq] at hf
          simp only [orFault_next, Host.Outcome.next.injEq] at h
          obtain ⟨q, hq, h⟩ := h
          exact .inr (.inr (.inl ⟨b, u, l, q, hbne, hb, hy, hu, hl, hq, hf, h.symm⟩))
        · simp only [Host.Outcome.next.injEq] at h; exact .inl ⟨hlt, h.symm⟩
      · simp only [Host.Outcome.next.injEq] at h; exact .inl ⟨hlt, h.symm⟩
    | short =>
      have ey : y ≠ 0xFF#8 ∧ y ≠ 0x80#8 := by
        simp only [classify, hbne, if_false] at hc
        split at hc
        · cases hc
        · split at hc
          · cases hc
          · exact ⟨by assumption, by assumption⟩
      rw [hc] at h
      simp only at h
      unfold walkShort at h
      split at h
      · next hf =>
        rw [frameFits, decide_eq_true_eq] at hf
        simp only [orFault_next, Host.Outcome.next.injEq] at h
        obtain ⟨q, hq, h⟩ := h
        exact .inr (.inr (.inr ⟨b, y, q, hbne, ey.1, ey.2, hb, hy, hq, hf, h.symm⟩))
      · simp only [Host.Outcome.next.injEq] at h; exact .inl ⟨hlt, h.symm⟩
  · simp only [Host.Outcome.next.injEq] at h; exact .inl ⟨hlt, h.symm⟩

/-! The payload byte of a read -/

/-- The byte held is stored after its echo, or kept by the abort of a transport error. -/
theorem echoPayload_next {p : Params} {q : Byte} {s t : State} (h : echoPayload p q s = .next t) :
    ∃ r, s.dstBind = some r ∧
      ((s.chErr = true ∧ t = abortKeeping q r s) ∨
       (s.chErr = false ∧ t = storePayload p q r { s with txq := s.txq ++ [q] })) := by
  obtain ⟨r, hr, h⟩ := orFault_next.1 h
  have hd : s.dstBind = some r := by
    unfold boundSink at hr
    split at hr <;> simp_all
  refine ⟨r, hd, ?_⟩
  split at h
  · next e => exact .inl ⟨e, (Host.Outcome.next.inj h).symm⟩
  · next e => rcases transmit_next h with ⟨e', -⟩ | ⟨e', h⟩
              · exact absurd e' e
              · exact .inr ⟨e', (Host.Outcome.next.inj h).symm⟩

theorem echoPayload_fault {p : Params} {q : Byte} {s : State} {f : Fault} (h : echoPayload p q s = .fault f) :
    s.dstBind = none := by
  rcases orFault_fault.1 h with h | ⟨r, -, h⟩
  · unfold boundSink at h
    split at h <;> simp_all
  · split at h
    · cases h
    · cases (transmit_fault h).2

/-- Either way the bound sink grows by the byte. -/
theorem storePayload_sinks (p : Params) (q : Byte) (r : Nat) (s : State) :
    (storePayload p q r s).sinks = (appendSink r [q] s).sinks := by
  unfold storePayload stopAfter
  split <;> rfl

theorem abortKeeping_sinks (q : Byte) (r : Nat) (s : State) : (abortKeeping q r s).sinks = (appendSink r [q] s).sinks := rfl

end Sys2Proof.Machine
end

