-- ==== Sys2Proof/Laws/PerInstr.lean ====
section
/-! SUPPORT. The per-instruction family TableRow: the encoding of a well-formed instruction matches its row of
spec/opcode_table.json, and no row that the table puts before it in its format. -/

namespace Sys2Proof.Laws

/-- The bits of a code that the table's patterns stand on: a host opcode, the pair be16(b0, b1) of a frame, a type code, or
the bytes of a control line. END has no b1; the table's pattern does not look at it. -/
def codeWord : Code → Option Nat
  | .host c => some c.opcode.toNat
  | .frame (b0 :: b1 :: _) => some (be16 b0 b1).toNat
  | .frame [b0] => some (be16 b0 0).toNat
  | .frame [] => none
  | .kind t _ _ => some t.toNat
  | .micro _ => none
  | .line bytes => some (bytes.foldl (fun n b => n * 256 + b.toNat) 0)

/-- Mask and match of the instruction's row; the micro-operations have none. -/
def rowPattern : Instr → Option (Nat × Nat)
  | .decode _ => some (0xFF, 0x01)
  | .encode _ _ _ => some (0xFF, 0x02)
  | .frameEnc _ _ => some (0xFF, 0x03)
  | .frameClassify _ => some (0xFF, 0x04)
  | .hdrParse _ => some (0xFF, 0x05)
  | .csum _ => some (0xFF, 0x06)
  | .csumCheck _ => some (0xFF, 0x07)
  | .hdrPatch _ _ => some (0xFF, 0x08)
  | .startWrite _ => some (0xFF, 0x10)
  | .startRead _ => some (0xFF, 0x11)
  | .sessionOpen _ _ _ => some (0xFF, 0x20)
  | .sessionClose => some (0xFF, 0x21)
  | .endFrame => some (0xFF00, 0xFF00)
  | .badFrame _ => some (0x00FF, 0x00FF)
  | .longFrame _ _ => some (0x00FF, 0x0080)
  | .shortFrame _ _ => some (0x0000, 0x0000)
  | .kindUnknownFF _ => some (0xFF, 0xFF)
  | .kindDfdecl _ _ => some (0xFF, 0x81)
  | .kindUnknownShortdecl _ _ => some (0xFF, 0x81)
  | .kindDiary _ _ => some (0xFF, 0x82)
  | .kindOpl _ _ => some (0xFF, 0x83)
  | .kindComms _ _ => some (0xFF, 0x84)
  | .kindSheet _ _ => some (0xFF, 0x85)
  | .kindPager _ _ => some (0xFF, 0x86)
  | .kindNotes _ _ => some (0xFF, 0x87)
  | .kindUnknown80 _ => some (0xFF, 0x80)
  | .kindUnknown88 _ _ _ => some (0xF8, 0x88)
  | .kindData90 _ _ _ => some (0xF0, 0x90)
  | .kindDataA0 _ _ _ => some (0xE0, 0xA0)
  | .kindDataC0 _ _ _ => some (0xE0, 0xC0)
  | .kindDataE0 _ _ _ => some (0xE0, 0xE0)
  | .csaClr => none
  | .csaAddHi _ => none
  | .csaAddLo _ => none
  | .csaCmp _ => none
  | .walkStep => none
  | .lineStep => none
  | .lineXXWrite => some (0xFFFFFFFFFFFFFF, 0x58585772697465)
  | .lineXXRead => some (0xFFFFFFFFFFFF, 0x585852656164)
  | .lineXXExit => some (0xFFFFFFFFFFFF, 0x585845786974)

/-- Mask and match of the rows that win over the instruction's own row. -/
def earlierRows : Instr → List (Nat × Nat)
  | .badFrame _ => [(0xFF00, 0xFF00)]
  | .longFrame _ _ => [(0xFF00, 0xFF00), (0x00FF, 0x00FF)]
  | .shortFrame _ _ => [(0xFF00, 0xFF00), (0x00FF, 0x00FF), (0x00FF, 0x0080)]
  | .kindDataE0 _ _ _ => [(0xFF, 0xFF)]
  | _ => []

/-- The word of a well-formed instruction matches its row and no row before it. -/
def TableRow.Statement (i : Instr) : Prop :=
  wellFormed i = true → ∀ w row, codeWord (encode i) = some w → rowPattern i = some row →
    w &&& row.1 = row.2 ∧ ∀ e ∈ earlierRows i, w &&& e.1 ≠ e.2

/-- An instruction whose word is a constant. -/
theorem tableRow_const {i : Instr} {w m v : Nat} (hw : codeWord (encode i) = some w) (hr : rowPattern i = some (m, v))
    (he : earlierRows i = []) (hm : w &&& m = v) : TableRow.Statement i := by
  intro _ w' row h1 h2
  rw [hw] at h1
  rw [hr] at h2
  cases h1
  cases h2
  rw [he]
  exact ⟨hm, by simp⟩

/-- An instruction without a row. -/
theorem tableRow_none {i : Instr} (hr : rowPattern i = none) : TableRow.Statement i := by
  intro _ w row _ h2
  rw [hr] at h2
  cases h2

theorem pair_masks (h l : Byte) : (be16 h l).toNat &&& 0x00FF = l.toNat ∧ (be16 h l).toNat &&& 0xFF00 = h.toNat * 256 := by
  have e : ((h ++ l) &&& 0x00FF#16).toNat = l.toNat ∧ ((h ++ l) &&& 0xFF00#16).toNat = h.toNat * 256 := by
    rw [show (0x00FF#16) = 0#8 ++ BitVec.allOnes 8 by decide, show (0xFF00#16) = BitVec.allOnes 8 ++ 0#8 by decide,
      BitVec.and_append, BitVec.and_append, BitVec.and_allOnes, BitVec.and_allOnes, BitVec.and_zero, BitVec.and_zero,
      BitVec.toNat_append, BitVec.toNat_append]
    simp [Nat.shiftLeft_eq]
  exact ⟨by simpa [be16, BitVec.toNat_and] using e.1, by simpa [be16, BitVec.toNat_and] using e.2⟩

theorem TableRow.decode (src : List Byte) : TableRow.Statement (.decode src) :=
    tableRow_const (w := 0x01) rfl rfl rfl rfl

theorem TableRow.encode (pack : PackOperand) (cfg : BitVec 40) (dst : Nat) : TableRow.Statement (.encode pack cfg dst) :=
    tableRow_const (w := 0x02) rfl rfl rfl rfl

theorem TableRow.frameEnc (d : FrameDesc) (dst : Nat) : TableRow.Statement (.frameEnc d dst) :=
    tableRow_const (w := 0x03) rfl rfl rfl rfl

theorem TableRow.frameClassify (bytes : List Byte) : TableRow.Statement (.frameClassify bytes) :=
    tableRow_const (w := 0x04) rfl rfl rfl rfl

theorem TableRow.hdrParse (h : List Byte) : TableRow.Statement (.hdrParse h) :=
    tableRow_const (w := 0x05) rfl rfl rfl rfl

theorem TableRow.csum (h : List Byte) : TableRow.Statement (.csum h) := tableRow_const (w := 0x06) rfl rfl rfl rfl

theorem TableRow.csumCheck (h : List Byte) : TableRow.Statement (.csumCheck h) :=
    tableRow_const (w := 0x07) rfl rfl rfl rfl

theorem TableRow.hdrPatch (h : List Byte) (cfg : BitVec 40) : TableRow.Statement (.hdrPatch h cfg) :=
    tableRow_const (w := 0x08) rfl rfl rfl rfl

theorem TableRow.startWrite (cfg : BitVec 40) : TableRow.Statement (.startWrite cfg) :=
    tableRow_const (w := 0x10) rfl rfl rfl rfl

theorem TableRow.startRead (cfg : BitVec 40) : TableRow.Statement (.startRead cfg) :=
    tableRow_const (w := 0x11) rfl rfl rfl rfl

theorem TableRow.sessionOpen (src : Nat) (dst : Nat) (cfg : BitVec 40) : TableRow.Statement (.sessionOpen src dst cfg) :=
    tableRow_const (w := 0x20) rfl rfl rfl rfl

theorem TableRow.sessionClose : TableRow.Statement .sessionClose := tableRow_const (w := 0x21) rfl rfl rfl rfl

theorem TableRow.endFrame : TableRow.Statement .endFrame := tableRow_const (w := 0xFF00) rfl rfl rfl rfl

theorem TableRow.badFrame (lead : Byte) : TableRow.Statement (.badFrame lead) := by
  intro h w row h1 h2
  simp only [Sys2Proof.encode, codeWord, Option.some.injEq] at h1
  simp only [rowPattern, Option.some.injEq] at h2
  subst h1 h2
  obtain ⟨lo, hi⟩ := pair_masks lead 0xFF
  have hl : lead.toNat ≠ 255 := fun e => by simp [wellFormed, BitVec.toNat_eq, e] at h
  exact ⟨by simpa using lo, by simp only [earlierRows, List.mem_singleton, forall_eq]; omega⟩

theorem TableRow.longFrame (lead : Byte) (len : BitVec 16) : TableRow.Statement (.longFrame lead len) := by
  intro h w row h1 h2
  simp only [Sys2Proof.encode, codeWord, Option.some.injEq] at h1
  simp only [rowPattern, Option.some.injEq] at h2
  subst h1 h2
  obtain ⟨lo, hi⟩ := pair_masks lead 0x80
  have hl : lead.toNat ≠ 255 := fun e => by simp [wellFormed, BitVec.toNat_eq, e] at h
  refine ⟨by simpa using lo, ?_⟩
  simp only [earlierRows, List.mem_cons, List.not_mem_nil, or_false, forall_eq_or_imp, forall_eq]
  exact ⟨by omega, by rw [lo]; decide⟩

theorem TableRow.shortFrame (len : Byte) (type : Byte) : TableRow.Statement (.shortFrame len type) := by
  intro h w row h1 h2
  simp only [Sys2Proof.encode, codeWord, Option.some.injEq] at h1
  simp only [rowPattern, Option.some.injEq] at h2
  subst h1 h2
  obtain ⟨lo, hi⟩ := pair_masks len type
  have hl : len.toNat ≠ 255 := fun e => by simp [wellFormed, shortLenWellFormed, BitVec.toNat_eq, e] at h
  have h80 : type.toNat ≠ 128 := fun e => by simp [wellFormed, BitVec.toNat_eq, e] at h
  have hff : type.toNat ≠ 255 := fun e => by simp [wellFormed, BitVec.toNat_eq, e] at h
  refine ⟨by simp, ?_⟩
  simp only [earlierRows, List.mem_cons, List.not_mem_nil, or_false, forall_eq_or_imp, forall_eq]
  omega

theorem TableRow.kindUnknownFF (len : Byte) : TableRow.Statement (.kindUnknownFF len) :=
    tableRow_const (w := 0xFF) rfl rfl rfl rfl

theorem TableRow.kindDfdecl (live : Bool) (len : Byte) : TableRow.Statement (.kindDfdecl live len) :=
    tableRow_const (w := 0x81) rfl rfl rfl rfl

theorem TableRow.kindUnknownShortdecl (live : Bool) (len : Byte) : TableRow.Statement (.kindUnknownShortdecl live len) :=
    tableRow_const (w := 0x81) rfl rfl rfl rfl

theorem TableRow.kindDiary (live : Bool) (len : Byte) : TableRow.Statement (.kindDiary live len) :=
    tableRow_const (w := 0x82) rfl rfl rfl rfl

theorem TableRow.kindOpl (live : Bool) (len : Byte) : TableRow.Statement (.kindOpl live len) :=
    tableRow_const (w := 0x83) rfl rfl rfl rfl

theorem TableRow.kindComms (live : Bool) (len : Byte) : TableRow.Statement (.kindComms live len) :=
    tableRow_const (w := 0x84) rfl rfl rfl rfl

theorem TableRow.kindSheet (live : Bool) (len : Byte) : TableRow.Statement (.kindSheet live len) :=
    tableRow_const (w := 0x85) rfl rfl rfl rfl

theorem TableRow.kindPager (live : Bool) (len : Byte) : TableRow.Statement (.kindPager live len) :=
    tableRow_const (w := 0x86) rfl rfl rfl rfl

theorem TableRow.kindNotes (live : Bool) (len : Byte) : TableRow.Statement (.kindNotes live len) :=
    tableRow_const (w := 0x87) rfl rfl rfl rfl

theorem TableRow.kindUnknown80 (len : Byte) : TableRow.Statement (.kindUnknown80 len) :=
    tableRow_const (w := 0x80) rfl rfl rfl rfl

theorem TableRow.kindUnknown88 (live : Bool) (low : BitVec 3) (len : Byte) : TableRow.Statement (.kindUnknown88 live low len) := by
  have hm : ∀ x : BitVec 3, (0x11#5 ++ x).toNat &&& 0xF8 = 0x88 := by decide
  exact tableRow_const rfl rfl rfl (hm low)

theorem TableRow.kindData90 (live : Bool) (low : BitVec 4) (len : Byte) : TableRow.Statement (.kindData90 live low len) := by
  have hm : ∀ x : BitVec 4, (0x9#4 ++ x).toNat &&& 0xF0 = 0x90 := by decide
  exact tableRow_const rfl rfl rfl (hm low)

theorem TableRow.kindDataA0 (live : Bool) (low : BitVec 5) (len : Byte) : TableRow.Statement (.kindDataA0 live low len) := by
  have hm : ∀ x : BitVec 5, (0x5#3 ++ x).toNat &&& 0xE0 = 0xA0 := by decide
  exact tableRow_const rfl rfl rfl (hm low)

theorem TableRow.kindDataC0 (live : Bool) (low : BitVec 5) (len : Byte) : TableRow.Statement (.kindDataC0 live low len) := by
  have hm : ∀ x : BitVec 5, (0x6#3 ++ x).toNat &&& 0xE0 = 0xC0 := by decide
  exact tableRow_const rfl rfl rfl (hm low)

theorem TableRow.kindDataE0 (live : Bool) (low : BitVec 5) (len : Byte) : TableRow.Statement (.kindDataE0 live low len) := by
  have hm : ∀ x : BitVec 5, (x != 0x1F#5) = true → (0x7#3 ++ x).toNat &&& 0xE0 = 0xE0 ∧ (0x7#3 ++ x).toNat &&& 0xFF ≠ 0xFF := by
    decide
  intro h w row h1 h2
  simp only [Sys2Proof.encode, codeWord, Option.some.injEq] at h1
  simp only [rowPattern, Option.some.injEq] at h2
  subst h1 h2
  simp only [wellFormed, Bool.and_eq_true] at h
  obtain ⟨h3, h4⟩ := hm low h.2
  exact ⟨h3, by simpa [earlierRows] using h4⟩

theorem TableRow.csaClr : TableRow.Statement .csaClr := tableRow_none rfl

theorem TableRow.csaAddHi (b : Byte) : TableRow.Statement (.csaAddHi b) := tableRow_none rfl

theorem TableRow.csaAddLo (b : Byte) : TableRow.Statement (.csaAddLo b) := tableRow_none rfl

theorem TableRow.csaCmp (w : BitVec 16) : TableRow.Statement (.csaCmp w) := tableRow_none rfl

theorem TableRow.walkStep : TableRow.Statement .walkStep := tableRow_none rfl

theorem TableRow.lineStep : TableRow.Statement .lineStep := tableRow_none rfl

theorem TableRow.lineXXWrite : TableRow.Statement .lineXXWrite :=
    tableRow_const (w := 0x58585772697465) rfl rfl rfl rfl

theorem TableRow.lineXXRead : TableRow.Statement .lineXXRead := tableRow_const (w := 0x585852656164) rfl rfl rfl rfl

theorem TableRow.lineXXExit : TableRow.Statement .lineXXExit := tableRow_const (w := 0x585845786974) rfl rfl rfl rfl

end Sys2Proof.Laws
end

