-- ==== Sys2Proof/Laws/State.lean ====
section
/-! SUPPORT. One lemma per field per named update of the state, each true by unfolding, so that no proof opens a record
update. -/

namespace Sys2Proof.Machine

variable (s : State)

/-! `setDiag` -/

@[simp] theorem setDiag_wstate (flag : Byte) : (setDiag flag s).wstate = s.wstate := rfl
@[simp] theorem setDiag_cur (flag : Byte) : (setDiag flag s).cur = s.cur := rfl
@[simp] theorem setDiag_size (flag : Byte) : (setDiag flag s).size = s.size := rfl
@[simp] theorem setDiag_nShort (flag : Byte) : (setDiag flag s).nShort = s.nShort := rfl
@[simp] theorem setDiag_nLong (flag : Byte) : (setDiag flag s).nLong = s.nLong := rfl
@[simp] theorem setDiag_nBad (flag : Byte) : (setDiag flag s).nBad = s.nBad := rfl
@[simp] theorem setDiag_hdr (flag : Byte) : (setDiag flag s).hdr = s.hdr := rfl
@[simp] theorem setDiag_diag (flag : Byte) : (setDiag flag s).diag = s.diag ||| flag := rfl
@[simp] theorem setDiag_status (flag : Byte) : (setDiag flag s).status = s.status := rfl
@[simp] theorem setDiag_busy (flag : Byte) : (setDiag flag s).busy = s.busy := rfl
@[simp] theorem setDiag_endAddr (flag : Byte) : (setDiag flag s).endAddr = s.endAddr := rfl
@[simp] theorem setDiag_endValid (flag : Byte) : (setDiag flag s).endValid = s.endValid := rfl
@[simp] theorem setDiag_cfg (flag : Byte) : (setDiag flag s).cfg = s.cfg := rfl
@[simp] theorem setDiag_reg (flag : Byte) : (setDiag flag s).reg = s.reg := rfl
@[simp] theorem setDiag_recs (flag : Byte) : (setDiag flag s).recs = s.recs := rfl
@[simp] theorem setDiag_csa (flag : Byte) : (setDiag flag s).csa = s.csa := rfl
@[simp] theorem setDiag_csMatch (flag : Byte) : (setDiag flag s).csMatch = s.csMatch := rfl
@[simp] theorem setDiag_xstate (flag : Byte) : (setDiag flag s).xstate = s.xstate := rfl
@[simp] theorem setDiag_addr (flag : Byte) : (setDiag flag s).addr = s.addr := rfl
@[simp] theorem setDiag_tsize (flag : Byte) : (setDiag flag s).tsize = s.tsize := rfl
@[simp] theorem setDiag_tidx (flag : Byte) : (setDiag flag s).tidx = s.tidx := rfl
@[simp] theorem setDiag_lastTx (flag : Byte) : (setDiag flag s).lastTx = s.lastTx := rfl
@[simp] theorem setDiag_ffrun (flag : Byte) : (setDiag flag s).ffrun = s.ffrun := rfl
@[simp] theorem setDiag_linebuf (flag : Byte) : (setDiag flag s).linebuf = s.linebuf := rfl
@[simp] theorem setDiag_lineOvf (flag : Byte) : (setDiag flag s).lineOvf = s.lineOvf := rfl
@[simp] theorem setDiag_opkind (flag : Byte) : (setDiag flag s).opkind = s.opkind := rfl
@[simp] theorem setDiag_srcBind (flag : Byte) : (setDiag flag s).srcBind = s.srcBind := rfl
@[simp] theorem setDiag_dstBind (flag : Byte) : (setDiag flag s).dstBind = s.dstBind := rfl
@[simp] theorem setDiag_timer (flag : Byte) : (setDiag flag s).timer = s.timer := rfl
@[simp] theorem setDiag_scfg (flag : Byte) : (setDiag flag s).scfg = s.scfg := rfl
@[simp] theorem setDiag_drainLeft (flag : Byte) : (setDiag flag s).drainLeft = s.drainLeft := rfl
@[simp] theorem setDiag_rdSizeBytes (flag : Byte) : (setDiag flag s).rdSizeBytes = s.rdSizeBytes := rfl
@[simp] theorem setDiag_rdPending (flag : Byte) : (setDiag flag s).rdPending = s.rdPending := rfl
@[simp] theorem setDiag_chOpen (flag : Byte) : (setDiag flag s).chOpen = s.chOpen := rfl
@[simp] theorem setDiag_rxq (flag : Byte) : (setDiag flag s).rxq = s.rxq := rfl
@[simp] theorem setDiag_txq (flag : Byte) : (setDiag flag s).txq = s.txq := rfl
@[simp] theorem setDiag_chErr (flag : Byte) : (setDiag flag s).chErr = s.chErr := rfl
@[simp] theorem setDiag_src (flag : Byte) : (setDiag flag s).src = s.src := rfl
@[simp] theorem setDiag_sources (flag : Byte) : (setDiag flag s).sources = s.sources := rfl
@[simp] theorem setDiag_sinks (flag : Byte) : (setDiag flag s).sinks = s.sinks := rfl
@[simp] theorem setDiag_hcmd (flag : Byte) : (setDiag flag s).hcmd = s.hcmd := rfl
@[simp] theorem setDiag_hrsp (flag : Byte) : (setDiag flag s).hrsp = s.hrsp := rfl
@[simp] theorem setDiag_sched (flag : Byte) : (setDiag flag s).sched = s.sched := rfl

/-! `setSink` -/

@[simp] theorem setSink_wstate (r : Nat) (m : Memory) : (setSink r m s).wstate = s.wstate := rfl
@[simp] theorem setSink_cur (r : Nat) (m : Memory) : (setSink r m s).cur = s.cur := rfl
@[simp] theorem setSink_size (r : Nat) (m : Memory) : (setSink r m s).size = s.size := rfl
@[simp] theorem setSink_nShort (r : Nat) (m : Memory) : (setSink r m s).nShort = s.nShort := rfl
@[simp] theorem setSink_nLong (r : Nat) (m : Memory) : (setSink r m s).nLong = s.nLong := rfl
@[simp] theorem setSink_nBad (r : Nat) (m : Memory) : (setSink r m s).nBad = s.nBad := rfl
@[simp] theorem setSink_hdr (r : Nat) (m : Memory) : (setSink r m s).hdr = s.hdr := rfl
@[simp] theorem setSink_diag (r : Nat) (m : Memory) : (setSink r m s).diag = s.diag := rfl
@[simp] theorem setSink_status (r : Nat) (m : Memory) : (setSink r m s).status = s.status := rfl
@[simp] theorem setSink_busy (r : Nat) (m : Memory) : (setSink r m s).busy = s.busy := rfl
@[simp] theorem setSink_endAddr (r : Nat) (m : Memory) : (setSink r m s).endAddr = s.endAddr := rfl
@[simp] theorem setSink_endValid (r : Nat) (m : Memory) : (setSink r m s).endValid = s.endValid := rfl
@[simp] theorem setSink_cfg (r : Nat) (m : Memory) : (setSink r m s).cfg = s.cfg := rfl
@[simp] theorem setSink_reg (r : Nat) (m : Memory) : (setSink r m s).reg = s.reg := rfl
@[simp] theorem setSink_recs (r : Nat) (m : Memory) : (setSink r m s).recs = s.recs := rfl
@[simp] theorem setSink_csa (r : Nat) (m : Memory) : (setSink r m s).csa = s.csa := rfl
@[simp] theorem setSink_csMatch (r : Nat) (m : Memory) : (setSink r m s).csMatch = s.csMatch := rfl
@[simp] theorem setSink_xstate (r : Nat) (m : Memory) : (setSink r m s).xstate = s.xstate := rfl
@[simp] theorem setSink_addr (r : Nat) (m : Memory) : (setSink r m s).addr = s.addr := rfl
@[simp] theorem setSink_tsize (r : Nat) (m : Memory) : (setSink r m s).tsize = s.tsize := rfl
@[simp] theorem setSink_tidx (r : Nat) (m : Memory) : (setSink r m s).tidx = s.tidx := rfl
@[simp] theorem setSink_lastTx (r : Nat) (m : Memory) : (setSink r m s).lastTx = s.lastTx := rfl
@[simp] theorem setSink_ffrun (r : Nat) (m : Memory) : (setSink r m s).ffrun = s.ffrun := rfl
@[simp] theorem setSink_linebuf (r : Nat) (m : Memory) : (setSink r m s).linebuf = s.linebuf := rfl
@[simp] theorem setSink_lineOvf (r : Nat) (m : Memory) : (setSink r m s).lineOvf = s.lineOvf := rfl
@[simp] theorem setSink_opkind (r : Nat) (m : Memory) : (setSink r m s).opkind = s.opkind := rfl
@[simp] theorem setSink_srcBind (r : Nat) (m : Memory) : (setSink r m s).srcBind = s.srcBind := rfl
@[simp] theorem setSink_dstBind (r : Nat) (m : Memory) : (setSink r m s).dstBind = s.dstBind := rfl
@[simp] theorem setSink_timer (r : Nat) (m : Memory) : (setSink r m s).timer = s.timer := rfl
@[simp] theorem setSink_scfg (r : Nat) (m : Memory) : (setSink r m s).scfg = s.scfg := rfl
@[simp] theorem setSink_drainLeft (r : Nat) (m : Memory) : (setSink r m s).drainLeft = s.drainLeft := rfl
@[simp] theorem setSink_rdSizeBytes (r : Nat) (m : Memory) : (setSink r m s).rdSizeBytes = s.rdSizeBytes := rfl
@[simp] theorem setSink_rdPending (r : Nat) (m : Memory) : (setSink r m s).rdPending = s.rdPending := rfl
@[simp] theorem setSink_chOpen (r : Nat) (m : Memory) : (setSink r m s).chOpen = s.chOpen := rfl
@[simp] theorem setSink_rxq (r : Nat) (m : Memory) : (setSink r m s).rxq = s.rxq := rfl
@[simp] theorem setSink_txq (r : Nat) (m : Memory) : (setSink r m s).txq = s.txq := rfl
@[simp] theorem setSink_chErr (r : Nat) (m : Memory) : (setSink r m s).chErr = s.chErr := rfl
@[simp] theorem setSink_src (r : Nat) (m : Memory) : (setSink r m s).src = s.src := rfl
@[simp] theorem setSink_sources (r : Nat) (m : Memory) : (setSink r m s).sources = s.sources := rfl
@[simp] theorem setSink_sinks (r : Nat) (m : Memory) : (setSink r m s).sinks = Store.set s.sinks r m := rfl
@[simp] theorem setSink_hcmd (r : Nat) (m : Memory) : (setSink r m s).hcmd = s.hcmd := rfl
@[simp] theorem setSink_hrsp (r : Nat) (m : Memory) : (setSink r m s).hrsp = s.hrsp := rfl
@[simp] theorem setSink_sched (r : Nat) (m : Memory) : (setSink r m s).sched = s.sched := rfl

/-! `finish` -/

@[simp] theorem finish_wstate (c : Status) (x : Result) : (finish c x s).wstate = s.wstate := rfl
@[simp] theorem finish_cur (c : Status) (x : Result) : (finish c x s).cur = s.cur := rfl
@[simp] theorem finish_size (c : Status) (x : Result) : (finish c x s).size = s.size := rfl
@[simp] theorem finish_nShort (c : Status) (x : Result) : (finish c x s).nShort = s.nShort := rfl
@[simp] theorem finish_nLong (c : Status) (x : Result) : (finish c x s).nLong = s.nLong := rfl
@[simp] theorem finish_nBad (c : Status) (x : Result) : (finish c x s).nBad = s.nBad := rfl
@[simp] theorem finish_hdr (c : Status) (x : Result) : (finish c x s).hdr = s.hdr := rfl
@[simp] theorem finish_diag (c : Status) (x : Result) : (finish c x s).diag = s.diag := rfl
@[simp] theorem finish_status (c : Status) (x : Result) : (finish c x s).status = statusCode c := rfl
@[simp] theorem finish_busy (c : Status) (x : Result) : (finish c x s).busy = false := rfl
@[simp] theorem finish_endAddr (c : Status) (x : Result) : (finish c x s).endAddr = s.endAddr := rfl
@[simp] theorem finish_endValid (c : Status) (x : Result) : (finish c x s).endValid = s.endValid := rfl
@[simp] theorem finish_cfg (c : Status) (x : Result) : (finish c x s).cfg = s.cfg := rfl
@[simp] theorem finish_reg (c : Status) (x : Result) : (finish c x s).reg = s.reg := rfl
@[simp] theorem finish_recs (c : Status) (x : Result) : (finish c x s).recs = s.recs := rfl
@[simp] theorem finish_csa (c : Status) (x : Result) : (finish c x s).csa = s.csa := rfl
@[simp] theorem finish_csMatch (c : Status) (x : Result) : (finish c x s).csMatch = s.csMatch := rfl
@[simp] theorem finish_xstate (c : Status) (x : Result) : (finish c x s).xstate = s.xstate := rfl
@[simp] theorem finish_addr (c : Status) (x : Result) : (finish c x s).addr = s.addr := rfl
@[simp] theorem finish_tsize (c : Status) (x : Result) : (finish c x s).tsize = s.tsize := rfl
@[simp] theorem finish_tidx (c : Status) (x : Result) : (finish c x s).tidx = s.tidx := rfl
@[simp] theorem finish_lastTx (c : Status) (x : Result) : (finish c x s).lastTx = s.lastTx := rfl
@[simp] theorem finish_ffrun (c : Status) (x : Result) : (finish c x s).ffrun = s.ffrun := rfl
@[simp] theorem finish_linebuf (c : Status) (x : Result) : (finish c x s).linebuf = s.linebuf := rfl
@[simp] theorem finish_lineOvf (c : Status) (x : Result) : (finish c x s).lineOvf = s.lineOvf := rfl
@[simp] theorem finish_opkind (c : Status) (x : Result) : (finish c x s).opkind = s.opkind := rfl
@[simp] theorem finish_srcBind (c : Status) (x : Result) : (finish c x s).srcBind = s.srcBind := rfl
@[simp] theorem finish_dstBind (c : Status) (x : Result) : (finish c x s).dstBind = s.dstBind := rfl
@[simp] theorem finish_timer (c : Status) (x : Result) : (finish c x s).timer = s.timer := rfl
@[simp] theorem finish_scfg (c : Status) (x : Result) : (finish c x s).scfg = s.scfg := rfl
@[simp] theorem finish_drainLeft (c : Status) (x : Result) : (finish c x s).drainLeft = s.drainLeft := rfl
@[simp] theorem finish_rdSizeBytes (c : Status) (x : Result) : (finish c x s).rdSizeBytes = s.rdSizeBytes := rfl
@[simp] theorem finish_rdPending (c : Status) (x : Result) : (finish c x s).rdPending = s.rdPending := rfl
@[simp] theorem finish_chOpen (c : Status) (x : Result) : (finish c x s).chOpen = s.chOpen := rfl
@[simp] theorem finish_rxq (c : Status) (x : Result) : (finish c x s).rxq = s.rxq := rfl
@[simp] theorem finish_txq (c : Status) (x : Result) : (finish c x s).txq = s.txq := rfl
@[simp] theorem finish_chErr (c : Status) (x : Result) : (finish c x s).chErr = s.chErr := rfl
@[simp] theorem finish_src (c : Status) (x : Result) : (finish c x s).src = s.src := rfl
@[simp] theorem finish_sources (c : Status) (x : Result) : (finish c x s).sources = s.sources := rfl
@[simp] theorem finish_sinks (c : Status) (x : Result) : (finish c x s).sinks = s.sinks := rfl
@[simp] theorem finish_hcmd (c : Status) (x : Result) : (finish c x s).hcmd = s.hcmd := rfl
@[simp] theorem finish_hrsp (c : Status) (x : Result) : (finish c x s).hrsp = { status := statusCode c, diag := s.diag, result := x } := rfl
@[simp] theorem finish_sched (c : Status) (x : Result) : (finish c x s).sched = s.sched := rfl

/-! `accept` -/

@[simp] theorem accept_wstate : (accept s).wstate = s.wstate := rfl
@[simp] theorem accept_cur : (accept s).cur = s.cur := rfl
@[simp] theorem accept_size : (accept s).size = s.size := rfl
@[simp] theorem accept_nShort : (accept s).nShort = s.nShort := rfl
@[simp] theorem accept_nLong : (accept s).nLong = s.nLong := rfl
@[simp] theorem accept_nBad : (accept s).nBad = s.nBad := rfl
@[simp] theorem accept_hdr : (accept s).hdr = s.hdr := rfl
@[simp] theorem accept_diag : (accept s).diag = 0 := rfl
@[simp] theorem accept_status : (accept s).status = s.status := rfl
@[simp] theorem accept_busy : (accept s).busy = true := rfl
@[simp] theorem accept_endAddr : (accept s).endAddr = s.endAddr := rfl
@[simp] theorem accept_endValid : (accept s).endValid = s.endValid := rfl
@[simp] theorem accept_cfg : (accept s).cfg = s.cfg := rfl
@[simp] theorem accept_reg : (accept s).reg = s.reg := rfl
@[simp] theorem accept_recs : (accept s).recs = s.recs := rfl
@[simp] theorem accept_csa : (accept s).csa = s.csa := rfl
@[simp] theorem accept_csMatch : (accept s).csMatch = s.csMatch := rfl
@[simp] theorem accept_xstate : (accept s).xstate = s.xstate := rfl
@[simp] theorem accept_addr : (accept s).addr = s.addr := rfl
@[simp] theorem accept_tsize : (accept s).tsize = s.tsize := rfl
@[simp] theorem accept_tidx : (accept s).tidx = s.tidx := rfl
@[simp] theorem accept_lastTx : (accept s).lastTx = s.lastTx := rfl
@[simp] theorem accept_ffrun : (accept s).ffrun = s.ffrun := rfl
@[simp] theorem accept_linebuf : (accept s).linebuf = s.linebuf := rfl
@[simp] theorem accept_lineOvf : (accept s).lineOvf = s.lineOvf := rfl
@[simp] theorem accept_opkind : (accept s).opkind = s.opkind := rfl
@[simp] theorem accept_srcBind : (accept s).srcBind = s.srcBind := rfl
@[simp] theorem accept_dstBind : (accept s).dstBind = s.dstBind := rfl
@[simp] theorem accept_timer : (accept s).timer = s.timer := rfl
@[simp] theorem accept_scfg : (accept s).scfg = s.scfg := rfl
@[simp] theorem accept_drainLeft : (accept s).drainLeft = s.drainLeft := rfl
@[simp] theorem accept_rdSizeBytes : (accept s).rdSizeBytes = s.rdSizeBytes := rfl
@[simp] theorem accept_rdPending : (accept s).rdPending = s.rdPending := rfl
@[simp] theorem accept_chOpen : (accept s).chOpen = s.chOpen := rfl
@[simp] theorem accept_rxq : (accept s).rxq = s.rxq := rfl
@[simp] theorem accept_txq : (accept s).txq = s.txq := rfl
@[simp] theorem accept_chErr : (accept s).chErr = s.chErr := rfl
@[simp] theorem accept_src : (accept s).src = s.src := rfl
@[simp] theorem accept_sources : (accept s).sources = s.sources := rfl
@[simp] theorem accept_sinks : (accept s).sinks = s.sinks := rfl
@[simp] theorem accept_hcmd : (accept s).hcmd = s.hcmd := rfl
@[simp] theorem accept_hrsp : (accept s).hrsp = s.hrsp := rfl
@[simp] theorem accept_sched : (accept s).sched = s.sched := rfl

/-! `refuse` -/

@[simp] theorem refuse_wstate (c : Status) : (refuse c s).wstate = s.wstate := rfl
@[simp] theorem refuse_cur (c : Status) : (refuse c s).cur = s.cur := rfl
@[simp] theorem refuse_size (c : Status) : (refuse c s).size = s.size := rfl
@[simp] theorem refuse_nShort (c : Status) : (refuse c s).nShort = s.nShort := rfl
@[simp] theorem refuse_nLong (c : Status) : (refuse c s).nLong = s.nLong := rfl
@[simp] theorem refuse_nBad (c : Status) : (refuse c s).nBad = s.nBad := rfl
@[simp] theorem refuse_hdr (c : Status) : (refuse c s).hdr = s.hdr := rfl
@[simp] theorem refuse_diag (c : Status) : (refuse c s).diag = 0 := rfl
@[simp] theorem refuse_status (c : Status) : (refuse c s).status = statusCode c := rfl
@[simp] theorem refuse_busy (c : Status) : (refuse c s).busy = false := rfl
@[simp] theorem refuse_endAddr (c : Status) : (refuse c s).endAddr = s.endAddr := rfl
@[simp] theorem refuse_endValid (c : Status) : (refuse c s).endValid = s.endValid := rfl
@[simp] theorem refuse_cfg (c : Status) : (refuse c s).cfg = s.cfg := rfl
@[simp] theorem refuse_reg (c : Status) : (refuse c s).reg = s.reg := rfl
@[simp] theorem refuse_recs (c : Status) : (refuse c s).recs = s.recs := rfl
@[simp] theorem refuse_csa (c : Status) : (refuse c s).csa = s.csa := rfl
@[simp] theorem refuse_csMatch (c : Status) : (refuse c s).csMatch = s.csMatch := rfl
@[simp] theorem refuse_xstate (c : Status) : (refuse c s).xstate = s.xstate := rfl
@[simp] theorem refuse_addr (c : Status) : (refuse c s).addr = s.addr := rfl
@[simp] theorem refuse_tsize (c : Status) : (refuse c s).tsize = s.tsize := rfl
@[simp] theorem refuse_tidx (c : Status) : (refuse c s).tidx = s.tidx := rfl
@[simp] theorem refuse_lastTx (c : Status) : (refuse c s).lastTx = s.lastTx := rfl
@[simp] theorem refuse_ffrun (c : Status) : (refuse c s).ffrun = s.ffrun := rfl
@[simp] theorem refuse_linebuf (c : Status) : (refuse c s).linebuf = s.linebuf := rfl
@[simp] theorem refuse_lineOvf (c : Status) : (refuse c s).lineOvf = s.lineOvf := rfl
@[simp] theorem refuse_opkind (c : Status) : (refuse c s).opkind = s.opkind := rfl
@[simp] theorem refuse_srcBind (c : Status) : (refuse c s).srcBind = s.srcBind := rfl
@[simp] theorem refuse_dstBind (c : Status) : (refuse c s).dstBind = s.dstBind := rfl
@[simp] theorem refuse_timer (c : Status) : (refuse c s).timer = s.timer := rfl
@[simp] theorem refuse_scfg (c : Status) : (refuse c s).scfg = s.scfg := rfl
@[simp] theorem refuse_drainLeft (c : Status) : (refuse c s).drainLeft = s.drainLeft := rfl
@[simp] theorem refuse_rdSizeBytes (c : Status) : (refuse c s).rdSizeBytes = s.rdSizeBytes := rfl
@[simp] theorem refuse_rdPending (c : Status) : (refuse c s).rdPending = s.rdPending := rfl
@[simp] theorem refuse_chOpen (c : Status) : (refuse c s).chOpen = s.chOpen := rfl
@[simp] theorem refuse_rxq (c : Status) : (refuse c s).rxq = s.rxq := rfl
@[simp] theorem refuse_txq (c : Status) : (refuse c s).txq = s.txq := rfl
@[simp] theorem refuse_chErr (c : Status) : (refuse c s).chErr = s.chErr := rfl
@[simp] theorem refuse_src (c : Status) : (refuse c s).src = s.src := rfl
@[simp] theorem refuse_sources (c : Status) : (refuse c s).sources = s.sources := rfl
@[simp] theorem refuse_sinks (c : Status) : (refuse c s).sinks = s.sinks := rfl
@[simp] theorem refuse_hcmd (c : Status) : (refuse c s).hcmd = s.hcmd := rfl
@[simp] theorem refuse_hrsp (c : Status) : (refuse c s).hrsp = { status := statusCode c, diag := 0, result := .none } := rfl
@[simp] theorem refuse_sched (c : Status) : (refuse c s).sched = s.sched := rfl

/-! `refuseBusy` -/

@[simp] theorem refuseBusy_wstate : (refuseBusy s).wstate = s.wstate := rfl
@[simp] theorem refuseBusy_cur : (refuseBusy s).cur = s.cur := rfl
@[simp] theorem refuseBusy_size : (refuseBusy s).size = s.size := rfl
@[simp] theorem refuseBusy_nShort : (refuseBusy s).nShort = s.nShort := rfl
@[simp] theorem refuseBusy_nLong : (refuseBusy s).nLong = s.nLong := rfl
@[simp] theorem refuseBusy_nBad : (refuseBusy s).nBad = s.nBad := rfl
@[simp] theorem refuseBusy_hdr : (refuseBusy s).hdr = s.hdr := rfl
@[simp] theorem refuseBusy_diag : (refuseBusy s).diag = s.diag := rfl
@[simp] theorem refuseBusy_status : (refuseBusy s).status = s.status := rfl
@[simp] theorem refuseBusy_busy : (refuseBusy s).busy = s.busy := rfl
@[simp] theorem refuseBusy_endAddr : (refuseBusy s).endAddr = s.endAddr := rfl
@[simp] theorem refuseBusy_endValid : (refuseBusy s).endValid = s.endValid := rfl
@[simp] theorem refuseBusy_cfg : (refuseBusy s).cfg = s.cfg := rfl
@[simp] theorem refuseBusy_reg : (refuseBusy s).reg = s.reg := rfl
@[simp] theorem refuseBusy_recs : (refuseBusy s).recs = s.recs := rfl
@[simp] theorem refuseBusy_csa : (refuseBusy s).csa = s.csa := rfl
@[simp] theorem refuseBusy_csMatch : (refuseBusy s).csMatch = s.csMatch := rfl
@[simp] theorem refuseBusy_xstate : (refuseBusy s).xstate = s.xstate := rfl
@[simp] theorem refuseBusy_addr : (refuseBusy s).addr = s.addr := rfl
@[simp] theorem refuseBusy_tsize : (refuseBusy s).tsize = s.tsize := rfl
@[simp] theorem refuseBusy_tidx : (refuseBusy s).tidx = s.tidx := rfl
@[simp] theorem refuseBusy_lastTx : (refuseBusy s).lastTx = s.lastTx := rfl
@[simp] theorem refuseBusy_ffrun : (refuseBusy s).ffrun = s.ffrun := rfl
@[simp] theorem refuseBusy_linebuf : (refuseBusy s).linebuf = s.linebuf := rfl
@[simp] theorem refuseBusy_lineOvf : (refuseBusy s).lineOvf = s.lineOvf := rfl
@[simp] theorem refuseBusy_opkind : (refuseBusy s).opkind = s.opkind := rfl
@[simp] theorem refuseBusy_srcBind : (refuseBusy s).srcBind = s.srcBind := rfl
@[simp] theorem refuseBusy_dstBind : (refuseBusy s).dstBind = s.dstBind := rfl
@[simp] theorem refuseBusy_timer : (refuseBusy s).timer = s.timer := rfl
@[simp] theorem refuseBusy_scfg : (refuseBusy s).scfg = s.scfg := rfl
@[simp] theorem refuseBusy_drainLeft : (refuseBusy s).drainLeft = s.drainLeft := rfl
@[simp] theorem refuseBusy_rdSizeBytes : (refuseBusy s).rdSizeBytes = s.rdSizeBytes := rfl
@[simp] theorem refuseBusy_rdPending : (refuseBusy s).rdPending = s.rdPending := rfl
@[simp] theorem refuseBusy_chOpen : (refuseBusy s).chOpen = s.chOpen := rfl
@[simp] theorem refuseBusy_rxq : (refuseBusy s).rxq = s.rxq := rfl
@[simp] theorem refuseBusy_txq : (refuseBusy s).txq = s.txq := rfl
@[simp] theorem refuseBusy_chErr : (refuseBusy s).chErr = s.chErr := rfl
@[simp] theorem refuseBusy_src : (refuseBusy s).src = s.src := rfl
@[simp] theorem refuseBusy_sources : (refuseBusy s).sources = s.sources := rfl
@[simp] theorem refuseBusy_sinks : (refuseBusy s).sinks = s.sinks := rfl
@[simp] theorem refuseBusy_hcmd : (refuseBusy s).hcmd = s.hcmd := rfl
@[simp] theorem refuseBusy_hrsp : (refuseBusy s).hrsp = { status := statusCode .badCommand, diag := s.diag, result := .none } := rfl
@[simp] theorem refuseBusy_sched : (refuseBusy s).sched = s.sched := rfl

/-! `sessionEnd` -/

@[simp] theorem sessionEnd_wstate (c : Status) : (sessionEnd c s).wstate = s.wstate := rfl
@[simp] theorem sessionEnd_cur (c : Status) : (sessionEnd c s).cur = s.cur := rfl
@[simp] theorem sessionEnd_size (c : Status) : (sessionEnd c s).size = s.size := rfl
@[simp] theorem sessionEnd_nShort (c : Status) : (sessionEnd c s).nShort = s.nShort := rfl
@[simp] theorem sessionEnd_nLong (c : Status) : (sessionEnd c s).nLong = s.nLong := rfl
@[simp] theorem sessionEnd_nBad (c : Status) : (sessionEnd c s).nBad = s.nBad := rfl
@[simp] theorem sessionEnd_hdr (c : Status) : (sessionEnd c s).hdr = s.hdr := rfl
@[simp] theorem sessionEnd_diag (c : Status) : (sessionEnd c s).diag = s.diag := rfl
@[simp] theorem sessionEnd_status (c : Status) : (sessionEnd c s).status = statusCode c := rfl
@[simp] theorem sessionEnd_busy (c : Status) : (sessionEnd c s).busy = false := rfl
@[simp] theorem sessionEnd_endAddr (c : Status) : (sessionEnd c s).endAddr = s.endAddr := rfl
@[simp] theorem sessionEnd_endValid (c : Status) : (sessionEnd c s).endValid = s.endValid := rfl
@[simp] theorem sessionEnd_cfg (c : Status) : (sessionEnd c s).cfg = s.cfg := rfl
@[simp] theorem sessionEnd_reg (c : Status) : (sessionEnd c s).reg = s.reg := rfl
@[simp] theorem sessionEnd_recs (c : Status) : (sessionEnd c s).recs = s.recs := rfl
@[simp] theorem sessionEnd_csa (c : Status) : (sessionEnd c s).csa = s.csa := rfl
@[simp] theorem sessionEnd_csMatch (c : Status) : (sessionEnd c s).csMatch = s.csMatch := rfl
@[simp] theorem sessionEnd_xstate (c : Status) : (sessionEnd c s).xstate = .xClosed := rfl
@[simp] theorem sessionEnd_addr (c : Status) : (sessionEnd c s).addr = s.addr := rfl
@[simp] theorem sessionEnd_tsize (c : Status) : (sessionEnd c s).tsize = s.tsize := rfl
@[simp] theorem sessionEnd_tidx (c : Status) : (sessionEnd c s).tidx = s.tidx := rfl
@[simp] theorem sessionEnd_lastTx (c : Status) : (sessionEnd c s).lastTx = s.lastTx := rfl
@[simp] theorem sessionEnd_ffrun (c : Status) : (sessionEnd c s).ffrun = s.ffrun := rfl
@[simp] theorem sessionEnd_linebuf (c : Status) : (sessionEnd c s).linebuf = [] := rfl
@[simp] theorem sessionEnd_lineOvf (c : Status) : (sessionEnd c s).lineOvf = false := rfl
@[simp] theorem sessionEnd_opkind (c : Status) : (sessionEnd c s).opkind = s.opkind := rfl
@[simp] theorem sessionEnd_srcBind (c : Status) : (sessionEnd c s).srcBind = none := rfl
@[simp] theorem sessionEnd_dstBind (c : Status) : (sessionEnd c s).dstBind = none := rfl
@[simp] theorem sessionEnd_timer (c : Status) : (sessionEnd c s).timer = false := rfl
@[simp] theorem sessionEnd_scfg (c : Status) : (sessionEnd c s).scfg = s.scfg := rfl
@[simp] theorem sessionEnd_drainLeft (c : Status) : (sessionEnd c s).drainLeft = s.drainLeft := rfl
@[simp] theorem sessionEnd_rdSizeBytes (c : Status) : (sessionEnd c s).rdSizeBytes = s.rdSizeBytes := rfl
@[simp] theorem sessionEnd_rdPending (c : Status) : (sessionEnd c s).rdPending = s.rdPending := rfl
@[simp] theorem sessionEnd_chOpen (c : Status) : (sessionEnd c s).chOpen = false := rfl
@[simp] theorem sessionEnd_rxq (c : Status) : (sessionEnd c s).rxq = s.rxq := rfl
@[simp] theorem sessionEnd_txq (c : Status) : (sessionEnd c s).txq = s.txq := rfl
@[simp] theorem sessionEnd_chErr (c : Status) : (sessionEnd c s).chErr = s.chErr := rfl
@[simp] theorem sessionEnd_src (c : Status) : (sessionEnd c s).src = s.src := rfl
@[simp] theorem sessionEnd_sources (c : Status) : (sessionEnd c s).sources = s.sources := rfl
@[simp] theorem sessionEnd_sinks (c : Status) : (sessionEnd c s).sinks = s.sinks := rfl
@[simp] theorem sessionEnd_hcmd (c : Status) : (sessionEnd c s).hcmd = s.hcmd := rfl
@[simp] theorem sessionEnd_hrsp (c : Status) : (sessionEnd c s).hrsp = { status := statusCode c, diag := s.diag, result := .none } := rfl
@[simp] theorem sessionEnd_sched (c : Status) : (sessionEnd c s).sched = s.sched := rfl

/-! `operationEntry` -/

@[simp] theorem operationEntry_wstate : (operationEntry s).wstate = s.wstate := rfl
@[simp] theorem operationEntry_cur : (operationEntry s).cur = s.cur := rfl
@[simp] theorem operationEntry_size : (operationEntry s).size = s.size := rfl
@[simp] theorem operationEntry_nShort : (operationEntry s).nShort = s.nShort := rfl
@[simp] theorem operationEntry_nLong : (operationEntry s).nLong = s.nLong := rfl
@[simp] theorem operationEntry_nBad : (operationEntry s).nBad = s.nBad := rfl
@[simp] theorem operationEntry_hdr : (operationEntry s).hdr = s.hdr := rfl
@[simp] theorem operationEntry_diag : (operationEntry s).diag = s.diag := rfl
@[simp] theorem operationEntry_status : (operationEntry s).status = s.status := rfl
@[simp] theorem operationEntry_busy : (operationEntry s).busy = true := rfl
@[simp] theorem operationEntry_endAddr : (operationEntry s).endAddr = s.endAddr := rfl
@[simp] theorem operationEntry_endValid : (operationEntry s).endValid = s.endValid := rfl
@[simp] theorem operationEntry_cfg : (operationEntry s).cfg = s.cfg := rfl
@[simp] theorem operationEntry_reg : (operationEntry s).reg = s.reg := rfl
@[simp] theorem operationEntry_recs : (operationEntry s).recs = s.recs := rfl
@[simp] theorem operationEntry_csa : (operationEntry s).csa = s.csa := rfl
@[simp] theorem operationEntry_csMatch : (operationEntry s).csMatch = s.csMatch := rfl
@[simp] theorem operationEntry_xstate : (operationEntry s).xstate = s.xstate := rfl
@[simp] theorem operationEntry_addr : (operationEntry s).addr = 0 := rfl
@[simp] theorem operationEntry_tsize : (operationEntry s).tsize = 0 := rfl
@[simp] theorem operationEntry_tidx : (operationEntry s).tidx = 0 := rfl
@[simp] theorem operationEntry_lastTx : (operationEntry s).lastTx = s.lastTx := rfl
@[simp] theorem operationEntry_ffrun : (operationEntry s).ffrun = s.ffrun := rfl
@[simp] theorem operationEntry_linebuf : (operationEntry s).linebuf = [] := rfl
@[simp] theorem operationEntry_lineOvf : (operationEntry s).lineOvf = false := rfl
@[simp] theorem operationEntry_opkind : (operationEntry s).opkind = s.opkind := rfl
@[simp] theorem operationEntry_srcBind : (operationEntry s).srcBind = s.srcBind := rfl
@[simp] theorem operationEntry_dstBind : (operationEntry s).dstBind = s.dstBind := rfl
@[simp] theorem operationEntry_timer : (operationEntry s).timer = false := rfl
@[simp] theorem operationEntry_scfg : (operationEntry s).scfg = s.scfg := rfl
@[simp] theorem operationEntry_drainLeft : (operationEntry s).drainLeft = 0 := rfl
@[simp] theorem operationEntry_rdSizeBytes : (operationEntry s).rdSizeBytes = [] := rfl
@[simp] theorem operationEntry_rdPending : (operationEntry s).rdPending = none := rfl
@[simp] theorem operationEntry_chOpen : (operationEntry s).chOpen = s.chOpen := rfl
@[simp] theorem operationEntry_rxq : (operationEntry s).rxq = s.rxq := rfl
@[simp] theorem operationEntry_txq : (operationEntry s).txq = s.txq := rfl
@[simp] theorem operationEntry_chErr : (operationEntry s).chErr = s.chErr := rfl
@[simp] theorem operationEntry_src : (operationEntry s).src = s.src := rfl
@[simp] theorem operationEntry_sources : (operationEntry s).sources = s.sources := rfl
@[simp] theorem operationEntry_sinks : (operationEntry s).sinks = s.sinks := rfl
@[simp] theorem operationEntry_hcmd : (operationEntry s).hcmd = s.hcmd := rfl
@[simp] theorem operationEntry_hrsp : (operationEntry s).hrsp = s.hrsp := rfl
@[simp] theorem operationEntry_sched : (operationEntry s).sched = s.sched := rfl

/-! `writeOperation` -/

@[simp] theorem writeOperation_wstate : (writeOperation s).wstate = s.wstate := rfl
@[simp] theorem writeOperation_cur : (writeOperation s).cur = s.cur := rfl
@[simp] theorem writeOperation_size : (writeOperation s).size = s.size := rfl
@[simp] theorem writeOperation_nShort : (writeOperation s).nShort = s.nShort := rfl
@[simp] theorem writeOperation_nLong : (writeOperation s).nLong = s.nLong := rfl
@[simp] theorem writeOperation_nBad : (writeOperation s).nBad = s.nBad := rfl
@[simp] theorem writeOperation_hdr : (writeOperation s).hdr = s.hdr := rfl
@[simp] theorem writeOperation_diag : (writeOperation s).diag = s.diag := rfl
@[simp] theorem writeOperation_status : (writeOperation s).status = s.status := rfl
@[simp] theorem writeOperation_busy : (writeOperation s).busy = true := rfl
@[simp] theorem writeOperation_endAddr : (writeOperation s).endAddr = s.endAddr := rfl
@[simp] theorem writeOperation_endValid : (writeOperation s).endValid = s.endValid := rfl
@[simp] theorem writeOperation_cfg : (writeOperation s).cfg = s.cfg := rfl
@[simp] theorem writeOperation_reg : (writeOperation s).reg = s.reg := rfl
@[simp] theorem writeOperation_recs : (writeOperation s).recs = s.recs := rfl
@[simp] theorem writeOperation_csa : (writeOperation s).csa = s.csa := rfl
@[simp] theorem writeOperation_csMatch : (writeOperation s).csMatch = s.csMatch := rfl
@[simp] theorem writeOperation_xstate : (writeOperation s).xstate = .wrCheck := rfl
@[simp] theorem writeOperation_addr : (writeOperation s).addr = 0 := rfl
@[simp] theorem writeOperation_tsize : (writeOperation s).tsize = 0 := rfl
@[simp] theorem writeOperation_tidx : (writeOperation s).tidx = 0 := rfl
@[simp] theorem writeOperation_lastTx : (writeOperation s).lastTx = s.lastTx := rfl
@[simp] theorem writeOperation_ffrun : (writeOperation s).ffrun = s.ffrun := rfl
@[simp] theorem writeOperation_linebuf : (writeOperation s).linebuf = [] := rfl
@[simp] theorem writeOperation_lineOvf : (writeOperation s).lineOvf = false := rfl
@[simp] theorem writeOperation_opkind : (writeOperation s).opkind = .write := rfl
@[simp] theorem writeOperation_srcBind : (writeOperation s).srcBind = s.srcBind := rfl
@[simp] theorem writeOperation_dstBind : (writeOperation s).dstBind = s.dstBind := rfl
@[simp] theorem writeOperation_timer : (writeOperation s).timer = false := rfl
@[simp] theorem writeOperation_scfg : (writeOperation s).scfg = s.scfg := rfl
@[simp] theorem writeOperation_drainLeft : (writeOperation s).drainLeft = 0 := rfl
@[simp] theorem writeOperation_rdSizeBytes : (writeOperation s).rdSizeBytes = [] := rfl
@[simp] theorem writeOperation_rdPending : (writeOperation s).rdPending = none := rfl
@[simp] theorem writeOperation_chOpen : (writeOperation s).chOpen = s.chOpen := rfl
@[simp] theorem writeOperation_rxq : (writeOperation s).rxq = s.rxq := rfl
@[simp] theorem writeOperation_txq : (writeOperation s).txq = s.txq := rfl
@[simp] theorem writeOperation_chErr : (writeOperation s).chErr = s.chErr := rfl
@[simp] theorem writeOperation_src : (writeOperation s).src = s.src := rfl
@[simp] theorem writeOperation_sources : (writeOperation s).sources = s.sources := rfl
@[simp] theorem writeOperation_sinks : (writeOperation s).sinks = s.sinks := rfl
@[simp] theorem writeOperation_hcmd : (writeOperation s).hcmd = s.hcmd := rfl
@[simp] theorem writeOperation_hrsp : (writeOperation s).hrsp = s.hrsp := rfl
@[simp] theorem writeOperation_sched : (writeOperation s).sched = s.sched := rfl

/-! `readOperation` -/

@[simp] theorem readOperation_wstate : (readOperation s).wstate = s.wstate := rfl
@[simp] theorem readOperation_cur : (readOperation s).cur = s.cur := rfl
@[simp] theorem readOperation_size : (readOperation s).size = s.size := rfl
@[simp] theorem readOperation_nShort : (readOperation s).nShort = s.nShort := rfl
@[simp] theorem readOperation_nLong : (readOperation s).nLong = s.nLong := rfl
@[simp] theorem readOperation_nBad : (readOperation s).nBad = s.nBad := rfl
@[simp] theorem readOperation_hdr : (readOperation s).hdr = s.hdr := rfl
@[simp] theorem readOperation_diag : (readOperation s).diag = s.diag := rfl
@[simp] theorem readOperation_status : (readOperation s).status = s.status := rfl
@[simp] theorem readOperation_busy : (readOperation s).busy = true := rfl
@[simp] theorem readOperation_endAddr : (readOperation s).endAddr = s.endAddr := rfl
@[simp] theorem readOperation_endValid : (readOperation s).endValid = s.endValid := rfl
@[simp] theorem readOperation_cfg : (readOperation s).cfg = s.cfg := rfl
@[simp] theorem readOperation_reg : (readOperation s).reg = s.reg := rfl
@[simp] theorem readOperation_recs : (readOperation s).recs = s.recs := rfl
@[simp] theorem readOperation_csa : (readOperation s).csa = s.csa := rfl
@[simp] theorem readOperation_csMatch : (readOperation s).csMatch = s.csMatch := rfl
@[simp] theorem readOperation_xstate : (readOperation s).xstate = .rdInit := rfl
@[simp] theorem readOperation_addr : (readOperation s).addr = 0 := rfl
@[simp] theorem readOperation_tsize : (readOperation s).tsize = 0 := rfl
@[simp] theorem readOperation_tidx : (readOperation s).tidx = 0 := rfl
@[simp] theorem readOperation_lastTx : (readOperation s).lastTx = s.lastTx := rfl
@[simp] theorem readOperation_ffrun : (readOperation s).ffrun = 0 := rfl
@[simp] theorem readOperation_linebuf : (readOperation s).linebuf = [] := rfl
@[simp] theorem readOperation_lineOvf : (readOperation s).lineOvf = false := rfl
@[simp] theorem readOperation_opkind : (readOperation s).opkind = .read := rfl
@[simp] theorem readOperation_srcBind : (readOperation s).srcBind = s.srcBind := rfl
@[simp] theorem readOperation_dstBind : (readOperation s).dstBind = s.dstBind := rfl
@[simp] theorem readOperation_timer : (readOperation s).timer = false := rfl
@[simp] theorem readOperation_scfg : (readOperation s).scfg = s.scfg := rfl
@[simp] theorem readOperation_drainLeft : (readOperation s).drainLeft = 0 := rfl
@[simp] theorem readOperation_rdSizeBytes : (readOperation s).rdSizeBytes = [] := rfl
@[simp] theorem readOperation_rdPending : (readOperation s).rdPending = none := rfl
@[simp] theorem readOperation_chOpen : (readOperation s).chOpen = s.chOpen := rfl
@[simp] theorem readOperation_rxq : (readOperation s).rxq = s.rxq := rfl
@[simp] theorem readOperation_txq : (readOperation s).txq = s.txq := rfl
@[simp] theorem readOperation_chErr : (readOperation s).chErr = s.chErr := rfl
@[simp] theorem readOperation_src : (readOperation s).src = s.src := rfl
@[simp] theorem readOperation_sources : (readOperation s).sources = s.sources := rfl
@[simp] theorem readOperation_sinks : (readOperation s).sinks = s.sinks := rfl
@[simp] theorem readOperation_hcmd : (readOperation s).hcmd = s.hcmd := rfl
@[simp] theorem readOperation_hrsp : (readOperation s).hrsp = s.hrsp := rfl
@[simp] theorem readOperation_sched : (readOperation s).sched = s.sched := rfl

/-! `operationExit` -/

@[simp] theorem operationExit_wstate : (operationExit s).wstate = s.wstate := rfl
@[simp] theorem operationExit_cur : (operationExit s).cur = s.cur := rfl
@[simp] theorem operationExit_size : (operationExit s).size = s.size := rfl
@[simp] theorem operationExit_nShort : (operationExit s).nShort = s.nShort := rfl
@[simp] theorem operationExit_nLong : (operationExit s).nLong = s.nLong := rfl
@[simp] theorem operationExit_nBad : (operationExit s).nBad = s.nBad := rfl
@[simp] theorem operationExit_hdr : (operationExit s).hdr = s.hdr := rfl
@[simp] theorem operationExit_diag : (operationExit s).diag = s.diag := rfl
@[simp] theorem operationExit_status : (operationExit s).status = statusCode .ok := rfl
@[simp] theorem operationExit_busy : (operationExit s).busy = false := rfl
@[simp] theorem operationExit_endAddr : (operationExit s).endAddr = s.endAddr := rfl
@[simp] theorem operationExit_endValid : (operationExit s).endValid = s.endValid := rfl
@[simp] theorem operationExit_cfg : (operationExit s).cfg = s.cfg := rfl
@[simp] theorem operationExit_reg : (operationExit s).reg = s.reg := rfl
@[simp] theorem operationExit_recs : (operationExit s).recs = s.recs := rfl
@[simp] theorem operationExit_csa : (operationExit s).csa = s.csa := rfl
@[simp] theorem operationExit_csMatch : (operationExit s).csMatch = s.csMatch := rfl
@[simp] theorem operationExit_xstate : (operationExit s).xstate = .xIdle := rfl
@[simp] theorem operationExit_addr : (operationExit s).addr = s.addr := rfl
@[simp] theorem operationExit_tsize : (operationExit s).tsize = s.tsize := rfl
@[simp] theorem operationExit_tidx : (operationExit s).tidx = s.tidx := rfl
@[simp] theorem operationExit_lastTx : (operationExit s).lastTx = s.lastTx := rfl
@[simp] theorem operationExit_ffrun : (operationExit s).ffrun = s.ffrun := rfl
@[simp] theorem operationExit_linebuf : (operationExit s).linebuf = s.linebuf := rfl
@[simp] theorem operationExit_lineOvf : (operationExit s).lineOvf = s.lineOvf := rfl
@[simp] theorem operationExit_opkind : (operationExit s).opkind = s.opkind := rfl
@[simp] theorem operationExit_srcBind : (operationExit s).srcBind = s.srcBind := rfl
@[simp] theorem operationExit_dstBind : (operationExit s).dstBind = s.dstBind := rfl
@[simp] theorem operationExit_timer : (operationExit s).timer = s.timer := rfl
@[simp] theorem operationExit_scfg : (operationExit s).scfg = s.scfg := rfl
@[simp] theorem operationExit_drainLeft : (operationExit s).drainLeft = s.drainLeft := rfl
@[simp] theorem operationExit_rdSizeBytes : (operationExit s).rdSizeBytes = s.rdSizeBytes := rfl
@[simp] theorem operationExit_rdPending : (operationExit s).rdPending = s.rdPending := rfl
@[simp] theorem operationExit_chOpen : (operationExit s).chOpen = s.chOpen := rfl
@[simp] theorem operationExit_rxq : (operationExit s).rxq = s.rxq := rfl
@[simp] theorem operationExit_txq : (operationExit s).txq = s.txq := rfl
@[simp] theorem operationExit_chErr : (operationExit s).chErr = s.chErr := rfl
@[simp] theorem operationExit_src : (operationExit s).src = s.src := rfl
@[simp] theorem operationExit_sources : (operationExit s).sources = s.sources := rfl
@[simp] theorem operationExit_sinks : (operationExit s).sinks = s.sinks := rfl
@[simp] theorem operationExit_hcmd : (operationExit s).hcmd = s.hcmd := rfl
@[simp] theorem operationExit_hrsp : (operationExit s).hrsp = { status := statusCode .ok, diag := s.diag, result := .none } := rfl
@[simp] theorem operationExit_sched : (operationExit s).sched = s.sched := rfl

/-! `csaClear` -/

@[simp] theorem csaClear_wstate : (csaClear s).wstate = s.wstate := rfl
@[simp] theorem csaClear_cur : (csaClear s).cur = s.cur := rfl
@[simp] theorem csaClear_size : (csaClear s).size = s.size := rfl
@[simp] theorem csaClear_nShort : (csaClear s).nShort = s.nShort := rfl
@[simp] theorem csaClear_nLong : (csaClear s).nLong = s.nLong := rfl
@[simp] theorem csaClear_nBad : (csaClear s).nBad = s.nBad := rfl
@[simp] theorem csaClear_hdr : (csaClear s).hdr = s.hdr := rfl
@[simp] theorem csaClear_diag : (csaClear s).diag = s.diag := rfl
@[simp] theorem csaClear_status : (csaClear s).status = s.status := rfl
@[simp] theorem csaClear_busy : (csaClear s).busy = s.busy := rfl
@[simp] theorem csaClear_endAddr : (csaClear s).endAddr = s.endAddr := rfl
@[simp] theorem csaClear_endValid : (csaClear s).endValid = s.endValid := rfl
@[simp] theorem csaClear_cfg : (csaClear s).cfg = s.cfg := rfl
@[simp] theorem csaClear_reg : (csaClear s).reg = s.reg := rfl
@[simp] theorem csaClear_recs : (csaClear s).recs = s.recs := rfl
@[simp] theorem csaClear_csa : (csaClear s).csa = 0 := rfl
@[simp] theorem csaClear_csMatch : (csaClear s).csMatch = s.csMatch := rfl
@[simp] theorem csaClear_xstate : (csaClear s).xstate = s.xstate := rfl
@[simp] theorem csaClear_addr : (csaClear s).addr = s.addr := rfl
@[simp] theorem csaClear_tsize : (csaClear s).tsize = s.tsize := rfl
@[simp] theorem csaClear_tidx : (csaClear s).tidx = s.tidx := rfl
@[simp] theorem csaClear_lastTx : (csaClear s).lastTx = s.lastTx := rfl
@[simp] theorem csaClear_ffrun : (csaClear s).ffrun = s.ffrun := rfl
@[simp] theorem csaClear_linebuf : (csaClear s).linebuf = s.linebuf := rfl
@[simp] theorem csaClear_lineOvf : (csaClear s).lineOvf = s.lineOvf := rfl
@[simp] theorem csaClear_opkind : (csaClear s).opkind = s.opkind := rfl
@[simp] theorem csaClear_srcBind : (csaClear s).srcBind = s.srcBind := rfl
@[simp] theorem csaClear_dstBind : (csaClear s).dstBind = s.dstBind := rfl
@[simp] theorem csaClear_timer : (csaClear s).timer = s.timer := rfl
@[simp] theorem csaClear_scfg : (csaClear s).scfg = s.scfg := rfl
@[simp] theorem csaClear_drainLeft : (csaClear s).drainLeft = s.drainLeft := rfl
@[simp] theorem csaClear_rdSizeBytes : (csaClear s).rdSizeBytes = s.rdSizeBytes := rfl
@[simp] theorem csaClear_rdPending : (csaClear s).rdPending = s.rdPending := rfl
@[simp] theorem csaClear_chOpen : (csaClear s).chOpen = s.chOpen := rfl
@[simp] theorem csaClear_rxq : (csaClear s).rxq = s.rxq := rfl
@[simp] theorem csaClear_txq : (csaClear s).txq = s.txq := rfl
@[simp] theorem csaClear_chErr : (csaClear s).chErr = s.chErr := rfl
@[simp] theorem csaClear_src : (csaClear s).src = s.src := rfl
@[simp] theorem csaClear_sources : (csaClear s).sources = s.sources := rfl
@[simp] theorem csaClear_sinks : (csaClear s).sinks = s.sinks := rfl
@[simp] theorem csaClear_hcmd : (csaClear s).hcmd = s.hcmd := rfl
@[simp] theorem csaClear_hrsp : (csaClear s).hrsp = s.hrsp := rfl
@[simp] theorem csaClear_sched : (csaClear s).sched = s.sched := rfl

/-! `csaAddHigh` -/

@[simp] theorem csaAddHigh_wstate (b : Byte) : (csaAddHigh b s).wstate = s.wstate := rfl
@[simp] theorem csaAddHigh_cur (b : Byte) : (csaAddHigh b s).cur = s.cur := rfl
@[simp] theorem csaAddHigh_size (b : Byte) : (csaAddHigh b s).size = s.size := rfl
@[simp] theorem csaAddHigh_nShort (b : Byte) : (csaAddHigh b s).nShort = s.nShort := rfl
@[simp] theorem csaAddHigh_nLong (b : Byte) : (csaAddHigh b s).nLong = s.nLong := rfl
@[simp] theorem csaAddHigh_nBad (b : Byte) : (csaAddHigh b s).nBad = s.nBad := rfl
@[simp] theorem csaAddHigh_hdr (b : Byte) : (csaAddHigh b s).hdr = s.hdr := rfl
@[simp] theorem csaAddHigh_diag (b : Byte) : (csaAddHigh b s).diag = s.diag := rfl
@[simp] theorem csaAddHigh_status (b : Byte) : (csaAddHigh b s).status = s.status := rfl
@[simp] theorem csaAddHigh_busy (b : Byte) : (csaAddHigh b s).busy = s.busy := rfl
@[simp] theorem csaAddHigh_endAddr (b : Byte) : (csaAddHigh b s).endAddr = s.endAddr := rfl
@[simp] theorem csaAddHigh_endValid (b : Byte) : (csaAddHigh b s).endValid = s.endValid := rfl
@[simp] theorem csaAddHigh_cfg (b : Byte) : (csaAddHigh b s).cfg = s.cfg := rfl
@[simp] theorem csaAddHigh_reg (b : Byte) : (csaAddHigh b s).reg = s.reg := rfl
@[simp] theorem csaAddHigh_recs (b : Byte) : (csaAddHigh b s).recs = s.recs := rfl
@[simp] theorem csaAddHigh_csa (b : Byte) : (csaAddHigh b s).csa = addHi s.csa b := rfl
@[simp] theorem csaAddHigh_csMatch (b : Byte) : (csaAddHigh b s).csMatch = s.csMatch := rfl
@[simp] theorem csaAddHigh_xstate (b : Byte) : (csaAddHigh b s).xstate = s.xstate := rfl
@[simp] theorem csaAddHigh_addr (b : Byte) : (csaAddHigh b s).addr = s.addr := rfl
@[simp] theorem csaAddHigh_tsize (b : Byte) : (csaAddHigh b s).tsize = s.tsize := rfl
@[simp] theorem csaAddHigh_tidx (b : Byte) : (csaAddHigh b s).tidx = s.tidx := rfl
@[simp] theorem csaAddHigh_lastTx (b : Byte) : (csaAddHigh b s).lastTx = s.lastTx := rfl
@[simp] theorem csaAddHigh_ffrun (b : Byte) : (csaAddHigh b s).ffrun = s.ffrun := rfl
@[simp] theorem csaAddHigh_linebuf (b : Byte) : (csaAddHigh b s).linebuf = s.linebuf := rfl
@[simp] theorem csaAddHigh_lineOvf (b : Byte) : (csaAddHigh b s).lineOvf = s.lineOvf := rfl
@[simp] theorem csaAddHigh_opkind (b : Byte) : (csaAddHigh b s).opkind = s.opkind := rfl
@[simp] theorem csaAddHigh_srcBind (b : Byte) : (csaAddHigh b s).srcBind = s.srcBind := rfl
@[simp] theorem csaAddHigh_dstBind (b : Byte) : (csaAddHigh b s).dstBind = s.dstBind := rfl
@[simp] theorem csaAddHigh_timer (b : Byte) : (csaAddHigh b s).timer = s.timer := rfl
@[simp] theorem csaAddHigh_scfg (b : Byte) : (csaAddHigh b s).scfg = s.scfg := rfl
@[simp] theorem csaAddHigh_drainLeft (b : Byte) : (csaAddHigh b s).drainLeft = s.drainLeft := rfl
@[simp] theorem csaAddHigh_rdSizeBytes (b : Byte) : (csaAddHigh b s).rdSizeBytes = s.rdSizeBytes := rfl
@[simp] theorem csaAddHigh_rdPending (b : Byte) : (csaAddHigh b s).rdPending = s.rdPending := rfl
@[simp] theorem csaAddHigh_chOpen (b : Byte) : (csaAddHigh b s).chOpen = s.chOpen := rfl
@[simp] theorem csaAddHigh_rxq (b : Byte) : (csaAddHigh b s).rxq = s.rxq := rfl
@[simp] theorem csaAddHigh_txq (b : Byte) : (csaAddHigh b s).txq = s.txq := rfl
@[simp] theorem csaAddHigh_chErr (b : Byte) : (csaAddHigh b s).chErr = s.chErr := rfl
@[simp] theorem csaAddHigh_src (b : Byte) : (csaAddHigh b s).src = s.src := rfl
@[simp] theorem csaAddHigh_sources (b : Byte) : (csaAddHigh b s).sources = s.sources := rfl
@[simp] theorem csaAddHigh_sinks (b : Byte) : (csaAddHigh b s).sinks = s.sinks := rfl
@[simp] theorem csaAddHigh_hcmd (b : Byte) : (csaAddHigh b s).hcmd = s.hcmd := rfl
@[simp] theorem csaAddHigh_hrsp (b : Byte) : (csaAddHigh b s).hrsp = s.hrsp := rfl
@[simp] theorem csaAddHigh_sched (b : Byte) : (csaAddHigh b s).sched = s.sched := rfl

/-! `csaAddLow` -/

@[simp] theorem csaAddLow_wstate (b : Byte) : (csaAddLow b s).wstate = s.wstate := rfl
@[simp] theorem csaAddLow_cur (b : Byte) : (csaAddLow b s).cur = s.cur := rfl
@[simp] theorem csaAddLow_size (b : Byte) : (csaAddLow b s).size = s.size := rfl
@[simp] theorem csaAddLow_nShort (b : Byte) : (csaAddLow b s).nShort = s.nShort := rfl
@[simp] theorem csaAddLow_nLong (b : Byte) : (csaAddLow b s).nLong = s.nLong := rfl
@[simp] theorem csaAddLow_nBad (b : Byte) : (csaAddLow b s).nBad = s.nBad := rfl
@[simp] theorem csaAddLow_hdr (b : Byte) : (csaAddLow b s).hdr = s.hdr := rfl
@[simp] theorem csaAddLow_diag (b : Byte) : (csaAddLow b s).diag = s.diag := rfl
@[simp] theorem csaAddLow_status (b : Byte) : (csaAddLow b s).status = s.status := rfl
@[simp] theorem csaAddLow_busy (b : Byte) : (csaAddLow b s).busy = s.busy := rfl
@[simp] theorem csaAddLow_endAddr (b : Byte) : (csaAddLow b s).endAddr = s.endAddr := rfl
@[simp] theorem csaAddLow_endValid (b : Byte) : (csaAddLow b s).endValid = s.endValid := rfl
@[simp] theorem csaAddLow_cfg (b : Byte) : (csaAddLow b s).cfg = s.cfg := rfl
@[simp] theorem csaAddLow_reg (b : Byte) : (csaAddLow b s).reg = s.reg := rfl
@[simp] theorem csaAddLow_recs (b : Byte) : (csaAddLow b s).recs = s.recs := rfl
@[simp] theorem csaAddLow_csa (b : Byte) : (csaAddLow b s).csa = addLo s.csa b := rfl
@[simp] theorem csaAddLow_csMatch (b : Byte) : (csaAddLow b s).csMatch = s.csMatch := rfl
@[simp] theorem csaAddLow_xstate (b : Byte) : (csaAddLow b s).xstate = s.xstate := rfl
@[simp] theorem csaAddLow_addr (b : Byte) : (csaAddLow b s).addr = s.addr := rfl
@[simp] theorem csaAddLow_tsize (b : Byte) : (csaAddLow b s).tsize = s.tsize := rfl
@[simp] theorem csaAddLow_tidx (b : Byte) : (csaAddLow b s).tidx = s.tidx := rfl
@[simp] theorem csaAddLow_lastTx (b : Byte) : (csaAddLow b s).lastTx = s.lastTx := rfl
@[simp] theorem csaAddLow_ffrun (b : Byte) : (csaAddLow b s).ffrun = s.ffrun := rfl
@[simp] theorem csaAddLow_linebuf (b : Byte) : (csaAddLow b s).linebuf = s.linebuf := rfl
@[simp] theorem csaAddLow_lineOvf (b : Byte) : (csaAddLow b s).lineOvf = s.lineOvf := rfl
@[simp] theorem csaAddLow_opkind (b : Byte) : (csaAddLow b s).opkind = s.opkind := rfl
@[simp] theorem csaAddLow_srcBind (b : Byte) : (csaAddLow b s).srcBind = s.srcBind := rfl
@[simp] theorem csaAddLow_dstBind (b : Byte) : (csaAddLow b s).dstBind = s.dstBind := rfl
@[simp] theorem csaAddLow_timer (b : Byte) : (csaAddLow b s).timer = s.timer := rfl
@[simp] theorem csaAddLow_scfg (b : Byte) : (csaAddLow b s).scfg = s.scfg := rfl
@[simp] theorem csaAddLow_drainLeft (b : Byte) : (csaAddLow b s).drainLeft = s.drainLeft := rfl
@[simp] theorem csaAddLow_rdSizeBytes (b : Byte) : (csaAddLow b s).rdSizeBytes = s.rdSizeBytes := rfl
@[simp] theorem csaAddLow_rdPending (b : Byte) : (csaAddLow b s).rdPending = s.rdPending := rfl
@[simp] theorem csaAddLow_chOpen (b : Byte) : (csaAddLow b s).chOpen = s.chOpen := rfl
@[simp] theorem csaAddLow_rxq (b : Byte) : (csaAddLow b s).rxq = s.rxq := rfl
@[simp] theorem csaAddLow_txq (b : Byte) : (csaAddLow b s).txq = s.txq := rfl
@[simp] theorem csaAddLow_chErr (b : Byte) : (csaAddLow b s).chErr = s.chErr := rfl
@[simp] theorem csaAddLow_src (b : Byte) : (csaAddLow b s).src = s.src := rfl
@[simp] theorem csaAddLow_sources (b : Byte) : (csaAddLow b s).sources = s.sources := rfl
@[simp] theorem csaAddLow_sinks (b : Byte) : (csaAddLow b s).sinks = s.sinks := rfl
@[simp] theorem csaAddLow_hcmd (b : Byte) : (csaAddLow b s).hcmd = s.hcmd := rfl
@[simp] theorem csaAddLow_hrsp (b : Byte) : (csaAddLow b s).hrsp = s.hrsp := rfl
@[simp] theorem csaAddLow_sched (b : Byte) : (csaAddLow b s).sched = s.sched := rfl

/-! `csaCompare` -/

@[simp] theorem csaCompare_wstate (w : BitVec 16) : (csaCompare w s).wstate = s.wstate := rfl
@[simp] theorem csaCompare_cur (w : BitVec 16) : (csaCompare w s).cur = s.cur := rfl
@[simp] theorem csaCompare_size (w : BitVec 16) : (csaCompare w s).size = s.size := rfl
@[simp] theorem csaCompare_nShort (w : BitVec 16) : (csaCompare w s).nShort = s.nShort := rfl
@[simp] theorem csaCompare_nLong (w : BitVec 16) : (csaCompare w s).nLong = s.nLong := rfl
@[simp] theorem csaCompare_nBad (w : BitVec 16) : (csaCompare w s).nBad = s.nBad := rfl
@[simp] theorem csaCompare_hdr (w : BitVec 16) : (csaCompare w s).hdr = s.hdr := rfl
@[simp] theorem csaCompare_diag (w : BitVec 16) : (csaCompare w s).diag = s.diag := rfl
@[simp] theorem csaCompare_status (w : BitVec 16) : (csaCompare w s).status = s.status := rfl
@[simp] theorem csaCompare_busy (w : BitVec 16) : (csaCompare w s).busy = s.busy := rfl
@[simp] theorem csaCompare_endAddr (w : BitVec 16) : (csaCompare w s).endAddr = s.endAddr := rfl
@[simp] theorem csaCompare_endValid (w : BitVec 16) : (csaCompare w s).endValid = s.endValid := rfl
@[simp] theorem csaCompare_cfg (w : BitVec 16) : (csaCompare w s).cfg = s.cfg := rfl
@[simp] theorem csaCompare_reg (w : BitVec 16) : (csaCompare w s).reg = s.reg := rfl
@[simp] theorem csaCompare_recs (w : BitVec 16) : (csaCompare w s).recs = s.recs := rfl
@[simp] theorem csaCompare_csa (w : BitVec 16) : (csaCompare w s).csa = s.csa := rfl
@[simp] theorem csaCompare_csMatch (w : BitVec 16) : (csaCompare w s).csMatch = (s.csa == w) := rfl
@[simp] theorem csaCompare_xstate (w : BitVec 16) : (csaCompare w s).xstate = s.xstate := rfl
@[simp] theorem csaCompare_addr (w : BitVec 16) : (csaCompare w s).addr = s.addr := rfl
@[simp] theorem csaCompare_tsize (w : BitVec 16) : (csaCompare w s).tsize = s.tsize := rfl
@[simp] theorem csaCompare_tidx (w : BitVec 16) : (csaCompare w s).tidx = s.tidx := rfl
@[simp] theorem csaCompare_lastTx (w : BitVec 16) : (csaCompare w s).lastTx = s.lastTx := rfl
@[simp] theorem csaCompare_ffrun (w : BitVec 16) : (csaCompare w s).ffrun = s.ffrun := rfl
@[simp] theorem csaCompare_linebuf (w : BitVec 16) : (csaCompare w s).linebuf = s.linebuf := rfl
@[simp] theorem csaCompare_lineOvf (w : BitVec 16) : (csaCompare w s).lineOvf = s.lineOvf := rfl
@[simp] theorem csaCompare_opkind (w : BitVec 16) : (csaCompare w s).opkind = s.opkind := rfl
@[simp] theorem csaCompare_srcBind (w : BitVec 16) : (csaCompare w s).srcBind = s.srcBind := rfl
@[simp] theorem csaCompare_dstBind (w : BitVec 16) : (csaCompare w s).dstBind = s.dstBind := rfl
@[simp] theorem csaCompare_timer (w : BitVec 16) : (csaCompare w s).timer = s.timer := rfl
@[simp] theorem csaCompare_scfg (w : BitVec 16) : (csaCompare w s).scfg = s.scfg := rfl
@[simp] theorem csaCompare_drainLeft (w : BitVec 16) : (csaCompare w s).drainLeft = s.drainLeft := rfl
@[simp] theorem csaCompare_rdSizeBytes (w : BitVec 16) : (csaCompare w s).rdSizeBytes = s.rdSizeBytes := rfl
@[simp] theorem csaCompare_rdPending (w : BitVec 16) : (csaCompare w s).rdPending = s.rdPending := rfl
@[simp] theorem csaCompare_chOpen (w : BitVec 16) : (csaCompare w s).chOpen = s.chOpen := rfl
@[simp] theorem csaCompare_rxq (w : BitVec 16) : (csaCompare w s).rxq = s.rxq := rfl
@[simp] theorem csaCompare_txq (w : BitVec 16) : (csaCompare w s).txq = s.txq := rfl
@[simp] theorem csaCompare_chErr (w : BitVec 16) : (csaCompare w s).chErr = s.chErr := rfl
@[simp] theorem csaCompare_src (w : BitVec 16) : (csaCompare w s).src = s.src := rfl
@[simp] theorem csaCompare_sources (w : BitVec 16) : (csaCompare w s).sources = s.sources := rfl
@[simp] theorem csaCompare_sinks (w : BitVec 16) : (csaCompare w s).sinks = s.sinks := rfl
@[simp] theorem csaCompare_hcmd (w : BitVec 16) : (csaCompare w s).hcmd = s.hcmd := rfl
@[simp] theorem csaCompare_hrsp (w : BitVec 16) : (csaCompare w s).hrsp = s.hrsp := rfl
@[simp] theorem csaCompare_sched (w : BitVec 16) : (csaCompare w s).sched = s.sched := rfl

/-! `registryAppend` -/

@[simp] theorem registryAppend_wstate (d : Decl) : (registryAppend d s).wstate = s.wstate := rfl
@[simp] theorem registryAppend_cur (d : Decl) : (registryAppend d s).cur = s.cur := rfl
@[simp] theorem registryAppend_size (d : Decl) : (registryAppend d s).size = s.size := rfl
@[simp] theorem registryAppend_nShort (d : Decl) : (registryAppend d s).nShort = s.nShort := rfl
@[simp] theorem registryAppend_nLong (d : Decl) : (registryAppend d s).nLong = s.nLong := rfl
@[simp] theorem registryAppend_nBad (d : Decl) : (registryAppend d s).nBad = s.nBad := rfl
@[simp] theorem registryAppend_hdr (d : Decl) : (registryAppend d s).hdr = s.hdr := rfl
@[simp] theorem registryAppend_diag (d : Decl) : (registryAppend d s).diag = s.diag := rfl
@[simp] theorem registryAppend_status (d : Decl) : (registryAppend d s).status = s.status := rfl
@[simp] theorem registryAppend_busy (d : Decl) : (registryAppend d s).busy = s.busy := rfl
@[simp] theorem registryAppend_endAddr (d : Decl) : (registryAppend d s).endAddr = s.endAddr := rfl
@[simp] theorem registryAppend_endValid (d : Decl) : (registryAppend d s).endValid = s.endValid := rfl
@[simp] theorem registryAppend_cfg (d : Decl) : (registryAppend d s).cfg = s.cfg := rfl
@[simp] theorem registryAppend_reg (d : Decl) : (registryAppend d s).reg = s.reg ++ [{ name := d.name, id := d.id, declAddr := s.cur }] := rfl
@[simp] theorem registryAppend_recs (d : Decl) : (registryAppend d s).recs = s.recs := rfl
@[simp] theorem registryAppend_csa (d : Decl) : (registryAppend d s).csa = s.csa := rfl
@[simp] theorem registryAppend_csMatch (d : Decl) : (registryAppend d s).csMatch = s.csMatch := rfl
@[simp] theorem registryAppend_xstate (d : Decl) : (registryAppend d s).xstate = s.xstate := rfl
@[simp] theorem registryAppend_addr (d : Decl) : (registryAppend d s).addr = s.addr := rfl
@[simp] theorem registryAppend_tsize (d : Decl) : (registryAppend d s).tsize = s.tsize := rfl
@[simp] theorem registryAppend_tidx (d : Decl) : (registryAppend d s).tidx = s.tidx := rfl
@[simp] theorem registryAppend_lastTx (d : Decl) : (registryAppend d s).lastTx = s.lastTx := rfl
@[simp] theorem registryAppend_ffrun (d : Decl) : (registryAppend d s).ffrun = s.ffrun := rfl
@[simp] theorem registryAppend_linebuf (d : Decl) : (registryAppend d s).linebuf = s.linebuf := rfl
@[simp] theorem registryAppend_lineOvf (d : Decl) : (registryAppend d s).lineOvf = s.lineOvf := rfl
@[simp] theorem registryAppend_opkind (d : Decl) : (registryAppend d s).opkind = s.opkind := rfl
@[simp] theorem registryAppend_srcBind (d : Decl) : (registryAppend d s).srcBind = s.srcBind := rfl
@[simp] theorem registryAppend_dstBind (d : Decl) : (registryAppend d s).dstBind = s.dstBind := rfl
@[simp] theorem registryAppend_timer (d : Decl) : (registryAppend d s).timer = s.timer := rfl
@[simp] theorem registryAppend_scfg (d : Decl) : (registryAppend d s).scfg = s.scfg := rfl
@[simp] theorem registryAppend_drainLeft (d : Decl) : (registryAppend d s).drainLeft = s.drainLeft := rfl
@[simp] theorem registryAppend_rdSizeBytes (d : Decl) : (registryAppend d s).rdSizeBytes = s.rdSizeBytes := rfl
@[simp] theorem registryAppend_rdPending (d : Decl) : (registryAppend d s).rdPending = s.rdPending := rfl
@[simp] theorem registryAppend_chOpen (d : Decl) : (registryAppend d s).chOpen = s.chOpen := rfl
@[simp] theorem registryAppend_rxq (d : Decl) : (registryAppend d s).rxq = s.rxq := rfl
@[simp] theorem registryAppend_txq (d : Decl) : (registryAppend d s).txq = s.txq := rfl
@[simp] theorem registryAppend_chErr (d : Decl) : (registryAppend d s).chErr = s.chErr := rfl
@[simp] theorem registryAppend_src (d : Decl) : (registryAppend d s).src = s.src := rfl
@[simp] theorem registryAppend_sources (d : Decl) : (registryAppend d s).sources = s.sources := rfl
@[simp] theorem registryAppend_sinks (d : Decl) : (registryAppend d s).sinks = s.sinks := rfl
@[simp] theorem registryAppend_hcmd (d : Decl) : (registryAppend d s).hcmd = s.hcmd := rfl
@[simp] theorem registryAppend_hrsp (d : Decl) : (registryAppend d s).hrsp = s.hrsp := rfl
@[simp] theorem registryAppend_sched (d : Decl) : (registryAppend d s).sched = s.sched := rfl

/-! `walkSizeMismatch` -/

@[simp] theorem walkSizeMismatch_wstate : (walkSizeMismatch s).wstate = .wSize := rfl
@[simp] theorem walkSizeMismatch_cur : (walkSizeMismatch s).cur = s.cur := rfl
@[simp] theorem walkSizeMismatch_size : (walkSizeMismatch s).size = s.size := rfl
@[simp] theorem walkSizeMismatch_nShort : (walkSizeMismatch s).nShort = s.nShort := rfl
@[simp] theorem walkSizeMismatch_nLong : (walkSizeMismatch s).nLong = s.nLong := rfl
@[simp] theorem walkSizeMismatch_nBad : (walkSizeMismatch s).nBad = s.nBad := rfl
@[simp] theorem walkSizeMismatch_hdr : (walkSizeMismatch s).hdr = s.hdr := rfl
@[simp] theorem walkSizeMismatch_diag : (walkSizeMismatch s).diag = s.diag ||| diagSizeMismatch := rfl
@[simp] theorem walkSizeMismatch_status : (walkSizeMismatch s).status = s.status := rfl
@[simp] theorem walkSizeMismatch_busy : (walkSizeMismatch s).busy = s.busy := rfl
@[simp] theorem walkSizeMismatch_endAddr : (walkSizeMismatch s).endAddr = s.endAddr := rfl
@[simp] theorem walkSizeMismatch_endValid : (walkSizeMismatch s).endValid = s.endValid := rfl
@[simp] theorem walkSizeMismatch_cfg : (walkSizeMismatch s).cfg = s.cfg := rfl
@[simp] theorem walkSizeMismatch_reg : (walkSizeMismatch s).reg = s.reg := rfl
@[simp] theorem walkSizeMismatch_recs : (walkSizeMismatch s).recs = s.recs := rfl
@[simp] theorem walkSizeMismatch_csa : (walkSizeMismatch s).csa = s.csa := rfl
@[simp] theorem walkSizeMismatch_csMatch : (walkSizeMismatch s).csMatch = s.csMatch := rfl
@[simp] theorem walkSizeMismatch_xstate : (walkSizeMismatch s).xstate = s.xstate := rfl
@[simp] theorem walkSizeMismatch_addr : (walkSizeMismatch s).addr = s.addr := rfl
@[simp] theorem walkSizeMismatch_tsize : (walkSizeMismatch s).tsize = s.tsize := rfl
@[simp] theorem walkSizeMismatch_tidx : (walkSizeMismatch s).tidx = s.tidx := rfl
@[simp] theorem walkSizeMismatch_lastTx : (walkSizeMismatch s).lastTx = s.lastTx := rfl
@[simp] theorem walkSizeMismatch_ffrun : (walkSizeMismatch s).ffrun = s.ffrun := rfl
@[simp] theorem walkSizeMismatch_linebuf : (walkSizeMismatch s).linebuf = s.linebuf := rfl
@[simp] theorem walkSizeMismatch_lineOvf : (walkSizeMismatch s).lineOvf = s.lineOvf := rfl
@[simp] theorem walkSizeMismatch_opkind : (walkSizeMismatch s).opkind = s.opkind := rfl
@[simp] theorem walkSizeMismatch_srcBind : (walkSizeMismatch s).srcBind = s.srcBind := rfl
@[simp] theorem walkSizeMismatch_dstBind : (walkSizeMismatch s).dstBind = s.dstBind := rfl
@[simp] theorem walkSizeMismatch_timer : (walkSizeMismatch s).timer = s.timer := rfl
@[simp] theorem walkSizeMismatch_scfg : (walkSizeMismatch s).scfg = s.scfg := rfl
@[simp] theorem walkSizeMismatch_drainLeft : (walkSizeMismatch s).drainLeft = s.drainLeft := rfl
@[simp] theorem walkSizeMismatch_rdSizeBytes : (walkSizeMismatch s).rdSizeBytes = s.rdSizeBytes := rfl
@[simp] theorem walkSizeMismatch_rdPending : (walkSizeMismatch s).rdPending = s.rdPending := rfl
@[simp] theorem walkSizeMismatch_chOpen : (walkSizeMismatch s).chOpen = s.chOpen := rfl
@[simp] theorem walkSizeMismatch_rxq : (walkSizeMismatch s).rxq = s.rxq := rfl
@[simp] theorem walkSizeMismatch_txq : (walkSizeMismatch s).txq = s.txq := rfl
@[simp] theorem walkSizeMismatch_chErr : (walkSizeMismatch s).chErr = s.chErr := rfl
@[simp] theorem walkSizeMismatch_src : (walkSizeMismatch s).src = s.src := rfl
@[simp] theorem walkSizeMismatch_sources : (walkSizeMismatch s).sources = s.sources := rfl
@[simp] theorem walkSizeMismatch_sinks : (walkSizeMismatch s).sinks = s.sinks := rfl
@[simp] theorem walkSizeMismatch_hcmd : (walkSizeMismatch s).hcmd = s.hcmd := rfl
@[simp] theorem walkSizeMismatch_hrsp : (walkSizeMismatch s).hrsp = s.hrsp := rfl
@[simp] theorem walkSizeMismatch_sched : (walkSizeMismatch s).sched = s.sched := rfl

/-! `walkEnd` -/

@[simp] theorem walkEnd_wstate : (walkEnd s).wstate = .wEnd := rfl
@[simp] theorem walkEnd_cur : (walkEnd s).cur = s.cur := rfl
@[simp] theorem walkEnd_size : (walkEnd s).size = s.size := rfl
@[simp] theorem walkEnd_nShort : (walkEnd s).nShort = s.nShort := rfl
@[simp] theorem walkEnd_nLong : (walkEnd s).nLong = s.nLong := rfl
@[simp] theorem walkEnd_nBad : (walkEnd s).nBad = s.nBad := rfl
@[simp] theorem walkEnd_hdr : (walkEnd s).hdr = s.hdr := rfl
@[simp] theorem walkEnd_diag : (walkEnd s).diag = s.diag := rfl
@[simp] theorem walkEnd_status : (walkEnd s).status = s.status := rfl
@[simp] theorem walkEnd_busy : (walkEnd s).busy = s.busy := rfl
@[simp] theorem walkEnd_endAddr : (walkEnd s).endAddr = s.cur := rfl
@[simp] theorem walkEnd_endValid : (walkEnd s).endValid = true := rfl
@[simp] theorem walkEnd_cfg : (walkEnd s).cfg = s.cfg := rfl
@[simp] theorem walkEnd_reg : (walkEnd s).reg = s.reg := rfl
@[simp] theorem walkEnd_recs : (walkEnd s).recs = s.recs := rfl
@[simp] theorem walkEnd_csa : (walkEnd s).csa = s.csa := rfl
@[simp] theorem walkEnd_csMatch : (walkEnd s).csMatch = s.csMatch := rfl
@[simp] theorem walkEnd_xstate : (walkEnd s).xstate = s.xstate := rfl
@[simp] theorem walkEnd_addr : (walkEnd s).addr = s.addr := rfl
@[simp] theorem walkEnd_tsize : (walkEnd s).tsize = s.tsize := rfl
@[simp] theorem walkEnd_tidx : (walkEnd s).tidx = s.tidx := rfl
@[simp] theorem walkEnd_lastTx : (walkEnd s).lastTx = s.lastTx := rfl
@[simp] theorem walkEnd_ffrun : (walkEnd s).ffrun = s.ffrun := rfl
@[simp] theorem walkEnd_linebuf : (walkEnd s).linebuf = s.linebuf := rfl
@[simp] theorem walkEnd_lineOvf : (walkEnd s).lineOvf = s.lineOvf := rfl
@[simp] theorem walkEnd_opkind : (walkEnd s).opkind = s.opkind := rfl
@[simp] theorem walkEnd_srcBind : (walkEnd s).srcBind = s.srcBind := rfl
@[simp] theorem walkEnd_dstBind : (walkEnd s).dstBind = s.dstBind := rfl
@[simp] theorem walkEnd_timer : (walkEnd s).timer = s.timer := rfl
@[simp] theorem walkEnd_scfg : (walkEnd s).scfg = s.scfg := rfl
@[simp] theorem walkEnd_drainLeft : (walkEnd s).drainLeft = s.drainLeft := rfl
@[simp] theorem walkEnd_rdSizeBytes : (walkEnd s).rdSizeBytes = s.rdSizeBytes := rfl
@[simp] theorem walkEnd_rdPending : (walkEnd s).rdPending = s.rdPending := rfl
@[simp] theorem walkEnd_chOpen : (walkEnd s).chOpen = s.chOpen := rfl
@[simp] theorem walkEnd_rxq : (walkEnd s).rxq = s.rxq := rfl
@[simp] theorem walkEnd_txq : (walkEnd s).txq = s.txq := rfl
@[simp] theorem walkEnd_chErr : (walkEnd s).chErr = s.chErr := rfl
@[simp] theorem walkEnd_src : (walkEnd s).src = s.src := rfl
@[simp] theorem walkEnd_sources : (walkEnd s).sources = s.sources := rfl
@[simp] theorem walkEnd_sinks : (walkEnd s).sinks = s.sinks := rfl
@[simp] theorem walkEnd_hcmd : (walkEnd s).hcmd = s.hcmd := rfl
@[simp] theorem walkEnd_hrsp : (walkEnd s).hrsp = s.hrsp := rfl
@[simp] theorem walkEnd_sched : (walkEnd s).sched = s.sched := rfl

/-! `walkTrunc` -/

@[simp] theorem walkTrunc_wstate : (walkTrunc s).wstate = .wTrunc := rfl
@[simp] theorem walkTrunc_cur : (walkTrunc s).cur = s.cur := rfl
@[simp] theorem walkTrunc_size : (walkTrunc s).size = s.size := rfl
@[simp] theorem walkTrunc_nShort : (walkTrunc s).nShort = s.nShort := rfl
@[simp] theorem walkTrunc_nLong : (walkTrunc s).nLong = s.nLong := rfl
@[simp] theorem walkTrunc_nBad : (walkTrunc s).nBad = s.nBad := rfl
@[simp] theorem walkTrunc_hdr : (walkTrunc s).hdr = s.hdr := rfl
@[simp] theorem walkTrunc_diag : (walkTrunc s).diag = s.diag ||| diagWalkTrunc := rfl
@[simp] theorem walkTrunc_status : (walkTrunc s).status = s.status := rfl
@[simp] theorem walkTrunc_busy : (walkTrunc s).busy = s.busy := rfl
@[simp] theorem walkTrunc_endAddr : (walkTrunc s).endAddr = s.endAddr := rfl
@[simp] theorem walkTrunc_endValid : (walkTrunc s).endValid = s.endValid := rfl
@[simp] theorem walkTrunc_cfg : (walkTrunc s).cfg = s.cfg := rfl
@[simp] theorem walkTrunc_reg : (walkTrunc s).reg = s.reg := rfl
@[simp] theorem walkTrunc_recs : (walkTrunc s).recs = s.recs := rfl
@[simp] theorem walkTrunc_csa : (walkTrunc s).csa = s.csa := rfl
@[simp] theorem walkTrunc_csMatch : (walkTrunc s).csMatch = s.csMatch := rfl
@[simp] theorem walkTrunc_xstate : (walkTrunc s).xstate = s.xstate := rfl
@[simp] theorem walkTrunc_addr : (walkTrunc s).addr = s.addr := rfl
@[simp] theorem walkTrunc_tsize : (walkTrunc s).tsize = s.tsize := rfl
@[simp] theorem walkTrunc_tidx : (walkTrunc s).tidx = s.tidx := rfl
@[simp] theorem walkTrunc_lastTx : (walkTrunc s).lastTx = s.lastTx := rfl
@[simp] theorem walkTrunc_ffrun : (walkTrunc s).ffrun = s.ffrun := rfl
@[simp] theorem walkTrunc_linebuf : (walkTrunc s).linebuf = s.linebuf := rfl
@[simp] theorem walkTrunc_lineOvf : (walkTrunc s).lineOvf = s.lineOvf := rfl
@[simp] theorem walkTrunc_opkind : (walkTrunc s).opkind = s.opkind := rfl
@[simp] theorem walkTrunc_srcBind : (walkTrunc s).srcBind = s.srcBind := rfl
@[simp] theorem walkTrunc_dstBind : (walkTrunc s).dstBind = s.dstBind := rfl
@[simp] theorem walkTrunc_timer : (walkTrunc s).timer = s.timer := rfl
@[simp] theorem walkTrunc_scfg : (walkTrunc s).scfg = s.scfg := rfl
@[simp] theorem walkTrunc_drainLeft : (walkTrunc s).drainLeft = s.drainLeft := rfl
@[simp] theorem walkTrunc_rdSizeBytes : (walkTrunc s).rdSizeBytes = s.rdSizeBytes := rfl
@[simp] theorem walkTrunc_rdPending : (walkTrunc s).rdPending = s.rdPending := rfl
@[simp] theorem walkTrunc_chOpen : (walkTrunc s).chOpen = s.chOpen := rfl
@[simp] theorem walkTrunc_rxq : (walkTrunc s).rxq = s.rxq := rfl
@[simp] theorem walkTrunc_txq : (walkTrunc s).txq = s.txq := rfl
@[simp] theorem walkTrunc_chErr : (walkTrunc s).chErr = s.chErr := rfl
@[simp] theorem walkTrunc_src : (walkTrunc s).src = s.src := rfl
@[simp] theorem walkTrunc_sources : (walkTrunc s).sources = s.sources := rfl
@[simp] theorem walkTrunc_sinks : (walkTrunc s).sinks = s.sinks := rfl
@[simp] theorem walkTrunc_hcmd : (walkTrunc s).hcmd = s.hcmd := rfl
@[simp] theorem walkTrunc_hrsp : (walkTrunc s).hrsp = s.hrsp := rfl
@[simp] theorem walkTrunc_sched : (walkTrunc s).sched = s.sched := rfl

/-! `appendLong` -/

@[simp] theorem appendLong_wstate (b : Byte) (l : BitVec 16) (q : List Byte) : (appendLong b l q s).wstate = s.wstate := rfl
@[simp] theorem appendLong_cur (b : Byte) (l : BitVec 16) (q : List Byte) : (appendLong b l q s).cur = BitVec.ofNat 25 (s.cur.toNat + 4 + l.toNat) := rfl
@[simp] theorem appendLong_size (b : Byte) (l : BitVec 16) (q : List Byte) : (appendLong b l q s).size = s.size := rfl
@[simp] theorem appendLong_nShort (b : Byte) (l : BitVec 16) (q : List Byte) : (appendLong b l q s).nShort = s.nShort := rfl
@[simp] theorem appendLong_nLong (b : Byte) (l : BitVec 16) (q : List Byte) : (appendLong b l q s).nLong = s.nLong + 1 := rfl
@[simp] theorem appendLong_nBad (b : Byte) (l : BitVec 16) (q : List Byte) : (appendLong b l q s).nBad = s.nBad := rfl
@[simp] theorem appendLong_hdr (b : Byte) (l : BitVec 16) (q : List Byte) : (appendLong b l q s).hdr = s.hdr := rfl
@[simp] theorem appendLong_diag (b : Byte) (l : BitVec 16) (q : List Byte) : (appendLong b l q s).diag = s.diag := rfl
@[simp] theorem appendLong_status (b : Byte) (l : BitVec 16) (q : List Byte) : (appendLong b l q s).status = s.status := rfl
@[simp] theorem appendLong_busy (b : Byte) (l : BitVec 16) (q : List Byte) : (appendLong b l q s).busy = s.busy := rfl
@[simp] theorem appendLong_endAddr (b : Byte) (l : BitVec 16) (q : List Byte) : (appendLong b l q s).endAddr = s.endAddr := rfl
@[simp] theorem appendLong_endValid (b : Byte) (l : BitVec 16) (q : List Byte) : (appendLong b l q s).endValid = s.endValid := rfl
@[simp] theorem appendLong_cfg (b : Byte) (l : BitVec 16) (q : List Byte) : (appendLong b l q s).cfg = s.cfg := rfl
@[simp] theorem appendLong_reg (b : Byte) (l : BitVec 16) (q : List Byte) : (appendLong b l q s).reg = s.reg := rfl
@[simp] theorem appendLong_recs (b : Byte) (l : BitVec 16) (q : List Byte) : (appendLong b l q s).recs = s.recs ++ [longEntry b l q s] := rfl
@[simp] theorem appendLong_csa (b : Byte) (l : BitVec 16) (q : List Byte) : (appendLong b l q s).csa = s.csa := rfl
@[simp] theorem appendLong_csMatch (b : Byte) (l : BitVec 16) (q : List Byte) : (appendLong b l q s).csMatch = s.csMatch := rfl
@[simp] theorem appendLong_xstate (b : Byte) (l : BitVec 16) (q : List Byte) : (appendLong b l q s).xstate = s.xstate := rfl
@[simp] theorem appendLong_addr (b : Byte) (l : BitVec 16) (q : List Byte) : (appendLong b l q s).addr = s.addr := rfl
@[simp] theorem appendLong_tsize (b : Byte) (l : BitVec 16) (q : List Byte) : (appendLong b l q s).tsize = s.tsize := rfl
@[simp] theorem appendLong_tidx (b : Byte) (l : BitVec 16) (q : List Byte) : (appendLong b l q s).tidx = s.tidx := rfl
@[simp] theorem appendLong_lastTx (b : Byte) (l : BitVec 16) (q : List Byte) : (appendLong b l q s).lastTx = s.lastTx := rfl
@[simp] theorem appendLong_ffrun (b : Byte) (l : BitVec 16) (q : List Byte) : (appendLong b l q s).ffrun = s.ffrun := rfl
@[simp] theorem appendLong_linebuf (b : Byte) (l : BitVec 16) (q : List Byte) : (appendLong b l q s).linebuf = s.linebuf := rfl
@[simp] theorem appendLong_lineOvf (b : Byte) (l : BitVec 16) (q : List Byte) : (appendLong b l q s).lineOvf = s.lineOvf := rfl
@[simp] theorem appendLong_opkind (b : Byte) (l : BitVec 16) (q : List Byte) : (appendLong b l q s).opkind = s.opkind := rfl
@[simp] theorem appendLong_srcBind (b : Byte) (l : BitVec 16) (q : List Byte) : (appendLong b l q s).srcBind = s.srcBind := rfl
@[simp] theorem appendLong_dstBind (b : Byte) (l : BitVec 16) (q : List Byte) : (appendLong b l q s).dstBind = s.dstBind := rfl
@[simp] theorem appendLong_timer (b : Byte) (l : BitVec 16) (q : List Byte) : (appendLong b l q s).timer = s.timer := rfl
@[simp] theorem appendLong_scfg (b : Byte) (l : BitVec 16) (q : List Byte) : (appendLong b l q s).scfg = s.scfg := rfl
@[simp] theorem appendLong_drainLeft (b : Byte) (l : BitVec 16) (q : List Byte) : (appendLong b l q s).drainLeft = s.drainLeft := rfl
@[simp] theorem appendLong_rdSizeBytes (b : Byte) (l : BitVec 16) (q : List Byte) : (appendLong b l q s).rdSizeBytes = s.rdSizeBytes := rfl
@[simp] theorem appendLong_rdPending (b : Byte) (l : BitVec 16) (q : List Byte) : (appendLong b l q s).rdPending = s.rdPending := rfl
@[simp] theorem appendLong_chOpen (b : Byte) (l : BitVec 16) (q : List Byte) : (appendLong b l q s).chOpen = s.chOpen := rfl
@[simp] theorem appendLong_rxq (b : Byte) (l : BitVec 16) (q : List Byte) : (appendLong b l q s).rxq = s.rxq := rfl
@[simp] theorem appendLong_txq (b : Byte) (l : BitVec 16) (q : List Byte) : (appendLong b l q s).txq = s.txq := rfl
@[simp] theorem appendLong_chErr (b : Byte) (l : BitVec 16) (q : List Byte) : (appendLong b l q s).chErr = s.chErr := rfl
@[simp] theorem appendLong_src (b : Byte) (l : BitVec 16) (q : List Byte) : (appendLong b l q s).src = s.src := rfl
@[simp] theorem appendLong_sources (b : Byte) (l : BitVec 16) (q : List Byte) : (appendLong b l q s).sources = s.sources := rfl
@[simp] theorem appendLong_sinks (b : Byte) (l : BitVec 16) (q : List Byte) : (appendLong b l q s).sinks = s.sinks := rfl
@[simp] theorem appendLong_hcmd (b : Byte) (l : BitVec 16) (q : List Byte) : (appendLong b l q s).hcmd = s.hcmd := rfl
@[simp] theorem appendLong_hrsp (b : Byte) (l : BitVec 16) (q : List Byte) : (appendLong b l q s).hrsp = s.hrsp := rfl
@[simp] theorem appendLong_sched (b : Byte) (l : BitVec 16) (q : List Byte) : (appendLong b l q s).sched = s.sched := rfl

/-! `decodeInit` -/

@[simp] theorem decodeInit_wstate (bs : List Byte) : (decodeInit bs s).wstate = .wIdle := rfl
@[simp] theorem decodeInit_cur (bs : List Byte) : (decodeInit bs s).cur = s.cur := rfl
@[simp] theorem decodeInit_size (bs : List Byte) : (decodeInit bs s).size = s.size := rfl
@[simp] theorem decodeInit_nShort (bs : List Byte) : (decodeInit bs s).nShort = 0 := rfl
@[simp] theorem decodeInit_nLong (bs : List Byte) : (decodeInit bs s).nLong = 0 := rfl
@[simp] theorem decodeInit_nBad (bs : List Byte) : (decodeInit bs s).nBad = 0 := rfl
@[simp] theorem decodeInit_hdr (bs : List Byte) : (decodeInit bs s).hdr = s.hdr := rfl
@[simp] theorem decodeInit_diag (bs : List Byte) : (decodeInit bs s).diag = s.diag := rfl
@[simp] theorem decodeInit_status (bs : List Byte) : (decodeInit bs s).status = s.status := rfl
@[simp] theorem decodeInit_busy (bs : List Byte) : (decodeInit bs s).busy = s.busy := rfl
@[simp] theorem decodeInit_endAddr (bs : List Byte) : (decodeInit bs s).endAddr = s.endAddr := rfl
@[simp] theorem decodeInit_endValid (bs : List Byte) : (decodeInit bs s).endValid = false := rfl
@[simp] theorem decodeInit_cfg (bs : List Byte) : (decodeInit bs s).cfg = s.cfg := rfl
@[simp] theorem decodeInit_reg (bs : List Byte) : (decodeInit bs s).reg = [] := rfl
@[simp] theorem decodeInit_recs (bs : List Byte) : (decodeInit bs s).recs = [] := rfl
@[simp] theorem decodeInit_csa (bs : List Byte) : (decodeInit bs s).csa = s.csa := rfl
@[simp] theorem decodeInit_csMatch (bs : List Byte) : (decodeInit bs s).csMatch = s.csMatch := rfl
@[simp] theorem decodeInit_xstate (bs : List Byte) : (decodeInit bs s).xstate = s.xstate := rfl
@[simp] theorem decodeInit_addr (bs : List Byte) : (decodeInit bs s).addr = s.addr := rfl
@[simp] theorem decodeInit_tsize (bs : List Byte) : (decodeInit bs s).tsize = s.tsize := rfl
@[simp] theorem decodeInit_tidx (bs : List Byte) : (decodeInit bs s).tidx = s.tidx := rfl
@[simp] theorem decodeInit_lastTx (bs : List Byte) : (decodeInit bs s).lastTx = s.lastTx := rfl
@[simp] theorem decodeInit_ffrun (bs : List Byte) : (decodeInit bs s).ffrun = s.ffrun := rfl
@[simp] theorem decodeInit_linebuf (bs : List Byte) : (decodeInit bs s).linebuf = s.linebuf := rfl
@[simp] theorem decodeInit_lineOvf (bs : List Byte) : (decodeInit bs s).lineOvf = s.lineOvf := rfl
@[simp] theorem decodeInit_opkind (bs : List Byte) : (decodeInit bs s).opkind = s.opkind := rfl
@[simp] theorem decodeInit_srcBind (bs : List Byte) : (decodeInit bs s).srcBind = s.srcBind := rfl
@[simp] theorem decodeInit_dstBind (bs : List Byte) : (decodeInit bs s).dstBind = s.dstBind := rfl
@[simp] theorem decodeInit_timer (bs : List Byte) : (decodeInit bs s).timer = s.timer := rfl
@[simp] theorem decodeInit_scfg (bs : List Byte) : (decodeInit bs s).scfg = s.scfg := rfl
@[simp] theorem decodeInit_drainLeft (bs : List Byte) : (decodeInit bs s).drainLeft = s.drainLeft := rfl
@[simp] theorem decodeInit_rdSizeBytes (bs : List Byte) : (decodeInit bs s).rdSizeBytes = s.rdSizeBytes := rfl
@[simp] theorem decodeInit_rdPending (bs : List Byte) : (decodeInit bs s).rdPending = s.rdPending := rfl
@[simp] theorem decodeInit_chOpen (bs : List Byte) : (decodeInit bs s).chOpen = s.chOpen := rfl
@[simp] theorem decodeInit_rxq (bs : List Byte) : (decodeInit bs s).rxq = s.rxq := rfl
@[simp] theorem decodeInit_txq (bs : List Byte) : (decodeInit bs s).txq = s.txq := rfl
@[simp] theorem decodeInit_chErr (bs : List Byte) : (decodeInit bs s).chErr = s.chErr := rfl
@[simp] theorem decodeInit_src (bs : List Byte) : (decodeInit bs s).src = Memory.ofBytes bs := rfl
@[simp] theorem decodeInit_sources (bs : List Byte) : (decodeInit bs s).sources = s.sources := rfl
@[simp] theorem decodeInit_sinks (bs : List Byte) : (decodeInit bs s).sinks = s.sinks := rfl
@[simp] theorem decodeInit_hcmd (bs : List Byte) : (decodeInit bs s).hcmd = s.hcmd := rfl
@[simp] theorem decodeInit_hrsp (bs : List Byte) : (decodeInit bs s).hrsp = s.hrsp := rfl
@[simp] theorem decodeInit_sched (bs : List Byte) : (decodeInit bs s).sched = s.sched := rfl

/-! `latchHeader` -/

@[simp] theorem latchHeader_wstate (h : List Byte) : (latchHeader h s).wstate = s.wstate := rfl
@[simp] theorem latchHeader_cur (h : List Byte) : (latchHeader h s).cur = s.cur := rfl
@[simp] theorem latchHeader_size (h : List Byte) : (latchHeader h s).size = s.size := rfl
@[simp] theorem latchHeader_nShort (h : List Byte) : (latchHeader h s).nShort = s.nShort := rfl
@[simp] theorem latchHeader_nLong (h : List Byte) : (latchHeader h s).nLong = s.nLong := rfl
@[simp] theorem latchHeader_nBad (h : List Byte) : (latchHeader h s).nBad = s.nBad := rfl
@[simp] theorem latchHeader_hdr (h : List Byte) : (latchHeader h s).hdr = h := rfl
@[simp] theorem latchHeader_diag (h : List Byte) : (latchHeader h s).diag = s.diag := rfl
@[simp] theorem latchHeader_status (h : List Byte) : (latchHeader h s).status = s.status := rfl
@[simp] theorem latchHeader_busy (h : List Byte) : (latchHeader h s).busy = s.busy := rfl
@[simp] theorem latchHeader_endAddr (h : List Byte) : (latchHeader h s).endAddr = s.endAddr := rfl
@[simp] theorem latchHeader_endValid (h : List Byte) : (latchHeader h s).endValid = s.endValid := rfl
@[simp] theorem latchHeader_cfg (h : List Byte) : (latchHeader h s).cfg = s.cfg := rfl
@[simp] theorem latchHeader_reg (h : List Byte) : (latchHeader h s).reg = s.reg := rfl
@[simp] theorem latchHeader_recs (h : List Byte) : (latchHeader h s).recs = s.recs := rfl
@[simp] theorem latchHeader_csa (h : List Byte) : (latchHeader h s).csa = s.csa := rfl
@[simp] theorem latchHeader_csMatch (h : List Byte) : (latchHeader h s).csMatch = s.csMatch := rfl
@[simp] theorem latchHeader_xstate (h : List Byte) : (latchHeader h s).xstate = s.xstate := rfl
@[simp] theorem latchHeader_addr (h : List Byte) : (latchHeader h s).addr = s.addr := rfl
@[simp] theorem latchHeader_tsize (h : List Byte) : (latchHeader h s).tsize = s.tsize := rfl
@[simp] theorem latchHeader_tidx (h : List Byte) : (latchHeader h s).tidx = s.tidx := rfl
@[simp] theorem latchHeader_lastTx (h : List Byte) : (latchHeader h s).lastTx = s.lastTx := rfl
@[simp] theorem latchHeader_ffrun (h : List Byte) : (latchHeader h s).ffrun = s.ffrun := rfl
@[simp] theorem latchHeader_linebuf (h : List Byte) : (latchHeader h s).linebuf = s.linebuf := rfl
@[simp] theorem latchHeader_lineOvf (h : List Byte) : (latchHeader h s).lineOvf = s.lineOvf := rfl
@[simp] theorem latchHeader_opkind (h : List Byte) : (latchHeader h s).opkind = s.opkind := rfl
@[simp] theorem latchHeader_srcBind (h : List Byte) : (latchHeader h s).srcBind = s.srcBind := rfl
@[simp] theorem latchHeader_dstBind (h : List Byte) : (latchHeader h s).dstBind = s.dstBind := rfl
@[simp] theorem latchHeader_timer (h : List Byte) : (latchHeader h s).timer = s.timer := rfl
@[simp] theorem latchHeader_scfg (h : List Byte) : (latchHeader h s).scfg = s.scfg := rfl
@[simp] theorem latchHeader_drainLeft (h : List Byte) : (latchHeader h s).drainLeft = s.drainLeft := rfl
@[simp] theorem latchHeader_rdSizeBytes (h : List Byte) : (latchHeader h s).rdSizeBytes = s.rdSizeBytes := rfl
@[simp] theorem latchHeader_rdPending (h : List Byte) : (latchHeader h s).rdPending = s.rdPending := rfl
@[simp] theorem latchHeader_chOpen (h : List Byte) : (latchHeader h s).chOpen = s.chOpen := rfl
@[simp] theorem latchHeader_rxq (h : List Byte) : (latchHeader h s).rxq = s.rxq := rfl
@[simp] theorem latchHeader_txq (h : List Byte) : (latchHeader h s).txq = s.txq := rfl
@[simp] theorem latchHeader_chErr (h : List Byte) : (latchHeader h s).chErr = s.chErr := rfl
@[simp] theorem latchHeader_src (h : List Byte) : (latchHeader h s).src = s.src := rfl
@[simp] theorem latchHeader_sources (h : List Byte) : (latchHeader h s).sources = s.sources := rfl
@[simp] theorem latchHeader_sinks (h : List Byte) : (latchHeader h s).sinks = s.sinks := rfl
@[simp] theorem latchHeader_hcmd (h : List Byte) : (latchHeader h s).hcmd = s.hcmd := rfl
@[simp] theorem latchHeader_hrsp (h : List Byte) : (latchHeader h s).hrsp = s.hrsp := rfl
@[simp] theorem latchHeader_sched (h : List Byte) : (latchHeader h s).sched = s.sched := rfl

/-! `startWalk` -/

@[simp] theorem startWalk_wstate : (startWalk s).wstate = .wRecords := rfl
@[simp] theorem startWalk_cur : (startWalk s).cur = 0x0A := rfl
@[simp] theorem startWalk_size : (startWalk s).size = s.size := rfl
@[simp] theorem startWalk_nShort : (startWalk s).nShort = s.nShort := rfl
@[simp] theorem startWalk_nLong : (startWalk s).nLong = s.nLong := rfl
@[simp] theorem startWalk_nBad : (startWalk s).nBad = s.nBad := rfl
@[simp] theorem startWalk_hdr : (startWalk s).hdr = s.hdr := rfl
@[simp] theorem startWalk_diag : (startWalk s).diag = s.diag := rfl
@[simp] theorem startWalk_status : (startWalk s).status = s.status := rfl
@[simp] theorem startWalk_busy : (startWalk s).busy = s.busy := rfl
@[simp] theorem startWalk_endAddr : (startWalk s).endAddr = s.endAddr := rfl
@[simp] theorem startWalk_endValid : (startWalk s).endValid = s.endValid := rfl
@[simp] theorem startWalk_cfg : (startWalk s).cfg = s.cfg := rfl
@[simp] theorem startWalk_reg : (startWalk s).reg = s.reg := rfl
@[simp] theorem startWalk_recs : (startWalk s).recs = s.recs := rfl
@[simp] theorem startWalk_csa : (startWalk s).csa = s.csa := rfl
@[simp] theorem startWalk_csMatch : (startWalk s).csMatch = s.csMatch := rfl
@[simp] theorem startWalk_xstate : (startWalk s).xstate = s.xstate := rfl
@[simp] theorem startWalk_addr : (startWalk s).addr = s.addr := rfl
@[simp] theorem startWalk_tsize : (startWalk s).tsize = s.tsize := rfl
@[simp] theorem startWalk_tidx : (startWalk s).tidx = s.tidx := rfl
@[simp] theorem startWalk_lastTx : (startWalk s).lastTx = s.lastTx := rfl
@[simp] theorem startWalk_ffrun : (startWalk s).ffrun = s.ffrun := rfl
@[simp] theorem startWalk_linebuf : (startWalk s).linebuf = s.linebuf := rfl
@[simp] theorem startWalk_lineOvf : (startWalk s).lineOvf = s.lineOvf := rfl
@[simp] theorem startWalk_opkind : (startWalk s).opkind = s.opkind := rfl
@[simp] theorem startWalk_srcBind : (startWalk s).srcBind = s.srcBind := rfl
@[simp] theorem startWalk_dstBind : (startWalk s).dstBind = s.dstBind := rfl
@[simp] theorem startWalk_timer : (startWalk s).timer = s.timer := rfl
@[simp] theorem startWalk_scfg : (startWalk s).scfg = s.scfg := rfl
@[simp] theorem startWalk_drainLeft : (startWalk s).drainLeft = s.drainLeft := rfl
@[simp] theorem startWalk_rdSizeBytes : (startWalk s).rdSizeBytes = s.rdSizeBytes := rfl
@[simp] theorem startWalk_rdPending : (startWalk s).rdPending = s.rdPending := rfl
@[simp] theorem startWalk_chOpen : (startWalk s).chOpen = s.chOpen := rfl
@[simp] theorem startWalk_rxq : (startWalk s).rxq = s.rxq := rfl
@[simp] theorem startWalk_txq : (startWalk s).txq = s.txq := rfl
@[simp] theorem startWalk_chErr : (startWalk s).chErr = s.chErr := rfl
@[simp] theorem startWalk_src : (startWalk s).src = s.src := rfl
@[simp] theorem startWalk_sources : (startWalk s).sources = s.sources := rfl
@[simp] theorem startWalk_sinks : (startWalk s).sinks = s.sinks := rfl
@[simp] theorem startWalk_hcmd : (startWalk s).hcmd = s.hcmd := rfl
@[simp] theorem startWalk_hrsp : (startWalk s).hrsp = s.hrsp := rfl
@[simp] theorem startWalk_sched : (startWalk s).sched = s.sched := rfl

/-! `clearLine` -/

@[simp] theorem clearLine_wstate : (clearLine s).wstate = s.wstate := rfl
@[simp] theorem clearLine_cur : (clearLine s).cur = s.cur := rfl
@[simp] theorem clearLine_size : (clearLine s).size = s.size := rfl
@[simp] theorem clearLine_nShort : (clearLine s).nShort = s.nShort := rfl
@[simp] theorem clearLine_nLong : (clearLine s).nLong = s.nLong := rfl
@[simp] theorem clearLine_nBad : (clearLine s).nBad = s.nBad := rfl
@[simp] theorem clearLine_hdr : (clearLine s).hdr = s.hdr := rfl
@[simp] theorem clearLine_diag : (clearLine s).diag = s.diag := rfl
@[simp] theorem clearLine_status : (clearLine s).status = s.status := rfl
@[simp] theorem clearLine_busy : (clearLine s).busy = s.busy := rfl
@[simp] theorem clearLine_endAddr : (clearLine s).endAddr = s.endAddr := rfl
@[simp] theorem clearLine_endValid : (clearLine s).endValid = s.endValid := rfl
@[simp] theorem clearLine_cfg : (clearLine s).cfg = s.cfg := rfl
@[simp] theorem clearLine_reg : (clearLine s).reg = s.reg := rfl
@[simp] theorem clearLine_recs : (clearLine s).recs = s.recs := rfl
@[simp] theorem clearLine_csa : (clearLine s).csa = s.csa := rfl
@[simp] theorem clearLine_csMatch : (clearLine s).csMatch = s.csMatch := rfl
@[simp] theorem clearLine_xstate : (clearLine s).xstate = s.xstate := rfl
@[simp] theorem clearLine_addr : (clearLine s).addr = s.addr := rfl
@[simp] theorem clearLine_tsize : (clearLine s).tsize = s.tsize := rfl
@[simp] theorem clearLine_tidx : (clearLine s).tidx = s.tidx := rfl
@[simp] theorem clearLine_lastTx : (clearLine s).lastTx = s.lastTx := rfl
@[simp] theorem clearLine_ffrun : (clearLine s).ffrun = s.ffrun := rfl
@[simp] theorem clearLine_linebuf : (clearLine s).linebuf = [] := rfl
@[simp] theorem clearLine_lineOvf : (clearLine s).lineOvf = false := rfl
@[simp] theorem clearLine_opkind : (clearLine s).opkind = s.opkind := rfl
@[simp] theorem clearLine_srcBind : (clearLine s).srcBind = s.srcBind := rfl
@[simp] theorem clearLine_dstBind : (clearLine s).dstBind = s.dstBind := rfl
@[simp] theorem clearLine_timer : (clearLine s).timer = s.timer := rfl
@[simp] theorem clearLine_scfg : (clearLine s).scfg = s.scfg := rfl
@[simp] theorem clearLine_drainLeft : (clearLine s).drainLeft = s.drainLeft := rfl
@[simp] theorem clearLine_rdSizeBytes : (clearLine s).rdSizeBytes = s.rdSizeBytes := rfl
@[simp] theorem clearLine_rdPending : (clearLine s).rdPending = s.rdPending := rfl
@[simp] theorem clearLine_chOpen : (clearLine s).chOpen = s.chOpen := rfl
@[simp] theorem clearLine_rxq : (clearLine s).rxq = s.rxq := rfl
@[simp] theorem clearLine_txq : (clearLine s).txq = s.txq := rfl
@[simp] theorem clearLine_chErr : (clearLine s).chErr = s.chErr := rfl
@[simp] theorem clearLine_src : (clearLine s).src = s.src := rfl
@[simp] theorem clearLine_sources : (clearLine s).sources = s.sources := rfl
@[simp] theorem clearLine_sinks : (clearLine s).sinks = s.sinks := rfl
@[simp] theorem clearLine_hcmd : (clearLine s).hcmd = s.hcmd := rfl
@[simp] theorem clearLine_hrsp : (clearLine s).hrsp = s.hrsp := rfl
@[simp] theorem clearLine_sched : (clearLine s).sched = s.sched := rfl

/-! `startDrain` -/

@[simp] theorem startDrain_wstate (n : BitVec 24) : (startDrain n s).wstate = s.wstate := rfl
@[simp] theorem startDrain_cur (n : BitVec 24) : (startDrain n s).cur = s.cur := rfl
@[simp] theorem startDrain_size (n : BitVec 24) : (startDrain n s).size = s.size := rfl
@[simp] theorem startDrain_nShort (n : BitVec 24) : (startDrain n s).nShort = s.nShort := rfl
@[simp] theorem startDrain_nLong (n : BitVec 24) : (startDrain n s).nLong = s.nLong := rfl
@[simp] theorem startDrain_nBad (n : BitVec 24) : (startDrain n s).nBad = s.nBad := rfl
@[simp] theorem startDrain_hdr (n : BitVec 24) : (startDrain n s).hdr = s.hdr := rfl
@[simp] theorem startDrain_diag (n : BitVec 24) : (startDrain n s).diag = s.diag := rfl
@[simp] theorem startDrain_status (n : BitVec 24) : (startDrain n s).status = s.status := rfl
@[simp] theorem startDrain_busy (n : BitVec 24) : (startDrain n s).busy = s.busy := rfl
@[simp] theorem startDrain_endAddr (n : BitVec 24) : (startDrain n s).endAddr = s.endAddr := rfl
@[simp] theorem startDrain_endValid (n : BitVec 24) : (startDrain n s).endValid = s.endValid := rfl
@[simp] theorem startDrain_cfg (n : BitVec 24) : (startDrain n s).cfg = s.cfg := rfl
@[simp] theorem startDrain_reg (n : BitVec 24) : (startDrain n s).reg = s.reg := rfl
@[simp] theorem startDrain_recs (n : BitVec 24) : (startDrain n s).recs = s.recs := rfl
@[simp] theorem startDrain_csa (n : BitVec 24) : (startDrain n s).csa = s.csa := rfl
@[simp] theorem startDrain_csMatch (n : BitVec 24) : (startDrain n s).csMatch = s.csMatch := rfl
@[simp] theorem startDrain_xstate (n : BitVec 24) : (startDrain n s).xstate = .wrDrain := rfl
@[simp] theorem startDrain_addr (n : BitVec 24) : (startDrain n s).addr = s.addr := rfl
@[simp] theorem startDrain_tsize (n : BitVec 24) : (startDrain n s).tsize = n := rfl
@[simp] theorem startDrain_tidx (n : BitVec 24) : (startDrain n s).tidx = s.tidx := rfl
@[simp] theorem startDrain_lastTx (n : BitVec 24) : (startDrain n s).lastTx = s.lastTx := rfl
@[simp] theorem startDrain_ffrun (n : BitVec 24) : (startDrain n s).ffrun = s.ffrun := rfl
@[simp] theorem startDrain_linebuf (n : BitVec 24) : (startDrain n s).linebuf = s.linebuf := rfl
@[simp] theorem startDrain_lineOvf (n : BitVec 24) : (startDrain n s).lineOvf = s.lineOvf := rfl
@[simp] theorem startDrain_opkind (n : BitVec 24) : (startDrain n s).opkind = s.opkind := rfl
@[simp] theorem startDrain_srcBind (n : BitVec 24) : (startDrain n s).srcBind = s.srcBind := rfl
@[simp] theorem startDrain_dstBind (n : BitVec 24) : (startDrain n s).dstBind = s.dstBind := rfl
@[simp] theorem startDrain_timer (n : BitVec 24) : (startDrain n s).timer = s.timer := rfl
@[simp] theorem startDrain_scfg (n : BitVec 24) : (startDrain n s).scfg = s.scfg := rfl
@[simp] theorem startDrain_drainLeft (n : BitVec 24) : (startDrain n s).drainLeft = s.rxq.length := rfl
@[simp] theorem startDrain_rdSizeBytes (n : BitVec 24) : (startDrain n s).rdSizeBytes = s.rdSizeBytes := rfl
@[simp] theorem startDrain_rdPending (n : BitVec 24) : (startDrain n s).rdPending = s.rdPending := rfl
@[simp] theorem startDrain_chOpen (n : BitVec 24) : (startDrain n s).chOpen = s.chOpen := rfl
@[simp] theorem startDrain_rxq (n : BitVec 24) : (startDrain n s).rxq = s.rxq := rfl
@[simp] theorem startDrain_txq (n : BitVec 24) : (startDrain n s).txq = s.txq := rfl
@[simp] theorem startDrain_chErr (n : BitVec 24) : (startDrain n s).chErr = s.chErr := rfl
@[simp] theorem startDrain_src (n : BitVec 24) : (startDrain n s).src = s.src := rfl
@[simp] theorem startDrain_sources (n : BitVec 24) : (startDrain n s).sources = s.sources := rfl
@[simp] theorem startDrain_sinks (n : BitVec 24) : (startDrain n s).sinks = s.sinks := rfl
@[simp] theorem startDrain_hcmd (n : BitVec 24) : (startDrain n s).hcmd = s.hcmd := rfl
@[simp] theorem startDrain_hrsp (n : BitVec 24) : (startDrain n s).hrsp = s.hrsp := rfl
@[simp] theorem startDrain_sched (n : BitVec 24) : (startDrain n s).sched = s.sched := rfl

end Sys2Proof.Machine
end

