-- ==== Sys2Proof/Machine/Notation.lean ====
section
/-! DEFINITION. The notation of spec/30_encoding.md, section 10, by its expansions: the pseudo-forms of frames, headers and
containers (R137) and the behaviours of the MCU peer (R139). It names byte strings and turns; the machine does not use it. -/

namespace Sys2Proof.Machine

/-! Frames, headers, containers (R137) -/

/-- `pad8`: ASCII spaces appended to 8 bytes. -/
def pad8 (name : List Byte) : List Byte := name ++ List.replicate (8 - name.length) 0x20

/-- `DFDECL "NAME", id`, a name of 1 to 8 characters. -/
def notationDfdecl (name : List Byte) (id : Byte) : Option FrameDesc :=
  if 1 ≤ name.length ∧ name.length ≤ 8 then some (.short 0x81 (pad8 name ++ [id])) else none

/-- `DFDECL.DEL "NAME", id`. -/
def notationDfdeclDel (name : List Byte) (id : Byte) : Option FrameDesc :=
  if 1 ≤ name.length ∧ name.length ≤ 8 then some (.short 0x01 (pad8 name ++ [id])) else none

/-- `DATA id, [p...]`, "valid only with the default `DF_ID_OF` and `id ≤ 0x6E`". -/
def notationData (p : Params) (id : Byte) (payload : List Byte) : Option FrameDesc :=
  if p.dfIdOverrides = [] ∧ id.toNat ≤ 0x6E then some (.short (0x90 + id) payload) else none

/-- `DATA.DEL id, [p...]`, with the same condition. -/
def notationDataDel (p : Params) (id : Byte) (payload : List Byte) : Option FrameDesc :=
  if p.dfIdOverrides = [] ∧ id.toNat ≤ 0x6E then some (.short (0x10 + id) payload) else none

/-- `REC kindname, [p...]` for the six kinds of a single type code. -/
def notationRec (k : Kind) (payload : List Byte) : Option FrameDesc :=
  match k with
  | .diary => some (.short 0x82 payload)
  | .opl => some (.short 0x83 payload)
  | .comms => some (.short 0x84 payload)
  | .sheet => some (.short 0x85 payload)
  | .pager => some (.short 0x86 payload)
  | .notes => some (.short 0x87 payload)
  | _ => none

/-- `LONGREC [p...]`: lead byte 0x02. -/
def notationLongrec (payload : List Byte) : FrameDesc := .long 0x02 payload

/-- `HEADER id, sz, yr, mth, day, hr, cnt, ck`; `ck = none` is AUTO, the checksum of R145. -/
def notationHeader (id sz yr mth day hr : Byte) (cnt : BitVec 16) (ck : Option (BitVec 16)) : List Byte :=
  let head := [id, sz, yr, mth, day, hr, hi8 cnt, lo8 cnt]
  head ++ [hi8 (ck.getD (checksum head)), lo8 (ck.getD (checksum head))]

/-- `CONTAINER img`. -/
def notationContainer (img : List Byte) : List Byte := containerOf img

/-! The MCU peer (R139) -/

/-- `MCU: send [bytes]`: the peer's turns. -/
def peerSend (bytes : List Byte) : List Turn := bytes.map (fun b => .env (.rxByte b))

/-- `MCU: send line "..."`: the line's bytes, then CR LF. -/
def peerSendLine (line : List Byte) : List Turn := peerSend (line ++ [0x0D, 0x0A])

/-- `MCU: echo except i -> v`: where OPKFE waits for the echo of payload byte ADDR the peer has sent it, or `v` for a byte
`i` of the list. The empty list is `MCU: echo`. -/
def peerEchoExcept (changes : List (Nat × Byte)) (s : State) : State :=
  if s.xstate = .wrEcho ∧ s.rxq = [] then
    { s with
      rxq := [match changes.find? (fun c => c.1 == s.addr.toNat) with
        | some c => c.2
        | none => s.lastTx] }
  else s

/-- `MCU: silent`: nothing is sent and the next await takes Tmo. -/
def peerSilent : List Turn := [.env .timerExpires]

end Sys2Proof.Machine
end

