-- ==== Sys2Proof/Tests/Slice0.lean ====
section
/-! SUPPORT. Tests: ill-formed terms refused, words of the spec's encodings decoded, the spec's worked examples one step at
a time, and for every statement with hypotheses a witness that meets them. -/

namespace Sys2Proof.Tests

open Sys2Proof.Machine

/-! Helpers -/

/-- The header fixture of R144. -/
def fixture : List Byte := [0x85, 0x02, 0x7A, 0x02, 0x0F, 0x0C, 0x00, 0x2A, 0x0E, 0x3A]

/-- A header of zeros. -/
def zeroHeader : List Byte := List.replicate 10 0

/-- The parameters with the defaults of R14, and 3 for NUM_FF_CHK (R258). -/
def defaults : Params where
  numFfChkPred := 2
  tEchoPred := 999
  tokenTail := []
  bootSense := true
  dfIdOverrides := []
  registerDeleted := true
  sentinelBounded := false
  truncateOnRetract := false
  lineMaxPred := 255

/-- A CFG with PACK_TYPE = 3. -/
def badCfg : BitVec 40 := 3

/-- The next state of an answer. -/
def after (a : Answer) : State :=
  match a with
  | .next t => t
  | _ => State.reset

/-- A DECODE in W_RECORDS at image address `cur` of this image. -/
def walking (img : List Byte) (cur : Nat) : State :=
  { State.reset with
    busy := true
    wstate := .wRecords
    src := Memory.ofBytes (containerOf img)
    size := BitVec.ofNat 24 img.length
    cur := BitVec.ofNat 25 cur }

/-- A walk that stands at the first frame of this image, the image's header being zeros. -/
def walkAt (frames : List Byte) : State := walking (zeroHeader ++ frames) 10

/-- An open session in X_IDLE whose source 0 holds this container and whose sink is 1. -/
def session (container : List Byte) : State :=
  { State.reset with
    xstate := .xIdle
    chOpen := true
    srcBind := some 0
    dstBind := some 1
    sources := Store.set [] 0 (Memory.ofBytes container) }

/-- A session in which an operation runs and stands in this state. -/
def running (x : XState) (k : OpKind) : State :=
  { session (containerOf [0x41, 0x42]) with xstate := x, busy := true, opkind := k }

/-- A read in RD_WAIT under this SCFG. -/
def reading (scfg : BitVec 40) : State :=
  { running .rdWait .read with scfg := scfg, sinks := Store.set [] 1 (Memory.ofBytes readPrefix) }

/-- Fixed-size mode with TARGET_LEN = 3, and sentinel mode (R33). -/
def fixed3 : BitVec 40 := 0x30000
def sentinel : BitVec 40 := 0x8000

/-! Ill-formed terms are refused, one for each check -/

theorem test_wf_lengths :
    wellFormed (.encode { hdr := [0x85], recs := [], tail := [] } 0 0) = false ∧ wellFormed (.frameClassify []) = false ∧
    wellFormed (.hdrParse (fixture.take 9)) = false ∧ wellFormed (.csum fixture) = false ∧
    wellFormed (.csumCheck (fixture.take 8)) = false ∧ wellFormed (.hdrPatch (fixture ++ [0]) 0) = false := by decide

theorem test_wf_pack_type :
    wellFormed (.encode { hdr := fixture, recs := [], tail := [] } badCfg 0) = false ∧
    wellFormed (.hdrPatch fixture badCfg) = false ∧ wellFormed (.startWrite badCfg) = false ∧
    wellFormed (.startRead badCfg) = false ∧ wellFormed (.sessionOpen 0 1 badCfg) = false := by decide

theorem test_wf_frames :
    wellFormed (.badFrame 0xFF) = false ∧ wellFormed (.longFrame 0xFF 0) = false ∧ wellFormed (.shortFrame 0xFF 0x95) = false ∧
    wellFormed (.shortFrame 3 0x80) = false ∧ wellFormed (.shortFrame 3 0xFF) = false := by decide

theorem test_wf_kind_lengths :
    wellFormed (.kindUnknownFF 0xFF) = false ∧ wellFormed (.kindDfdecl true 0xFF) = false ∧
    wellFormed (.kindDfdecl true 8) = false ∧ wellFormed (.kindUnknownShortdecl true 9) = false ∧
    wellFormed (.kindDiary true 0xFF) = false ∧ wellFormed (.kindOpl true 0xFF) = false ∧
    wellFormed (.kindComms true 0xFF) = false ∧ wellFormed (.kindSheet true 0xFF) = false ∧
    wellFormed (.kindPager true 0xFF) = false ∧ wellFormed (.kindNotes true 0xFF) = false ∧
    wellFormed (.kindUnknown80 0xFF) = false ∧ wellFormed (.kindUnknown88 true 0 0xFF) = false := by decide

theorem test_wf_data_rows :
    wellFormed (.kindData90 true 0 0xFF) = false ∧ wellFormed (.kindDataA0 true 0 0xFF) = false ∧
    wellFormed (.kindDataC0 true 0 0xFF) = false ∧ wellFormed (.kindDataE0 true 0 0xFF) = false ∧
    wellFormed (.kindDataE0 true 0x1F 3) = false := by decide

/-! Words written out from spec/30_encoding.md decode to their instructions -/

/-- R107. -/
theorem test_decode_host_codec :
    decodeTableWord 8 0x01 = some (.decode []) ∧
    decodeTableWord 8 0x02 = some (.encode { hdr := zeroHeader, recs := [], tail := [] } 0 0) ∧
    decodeTableWord 8 0x03 = some (.frameEnc .endF 0) ∧ decodeTableWord 8 0x04 = some (.frameClassify [0]) ∧
    decodeTableWord 8 0x05 = some (.hdrParse zeroHeader) ∧ decodeTableWord 8 0x06 = some (.csum (List.replicate 8 0)) ∧
    decodeTableWord 8 0x07 = some (.csumCheck zeroHeader) ∧
    decodeTableWord 8 0x08 = some (.hdrPatch zeroHeader 0) := by decide

/-- R107. -/
theorem test_decode_host_transfer :
    decodeTableWord 8 0x10 = some (.startWrite 0) ∧ decodeTableWord 8 0x11 = some (.startRead 0) ∧
    decodeTableWord 8 0x20 = some (.sessionOpen 0 0 0) ∧ decodeTableWord 8 0x21 = some .sessionClose := by decide

/-- R107, R130: operands by value; an unassigned opcode. -/
theorem test_decode_host_operands :
    decode (.host { opcode := 0x03, args := { noArgs with desc := .bad 0x10, dst := 4 } }) = .ok (.frameEnc (.bad 0x10) 4) ∧
    decode (.host { opcode := 0x20, args := { noArgs with src := 1, dst := 2, cfg := 5 } }) = .ok (.sessionOpen 1 2 5) ∧
    decode (.host { opcode := 0x09, args := noArgs }) = .error (.unassignedOpcode 0x09) := ⟨rfl, rfl, rfl⟩

/-- R112: END wins over every b1, then BAD, LONG, SHORT; the length of a LONG is big-endian (R115). -/
theorem test_decode_frames :
    decode (.frame [0xFF, 0xFF]) = .ok .endFrame ∧ decode (.frame [0xFF, 0x80]) = .ok .endFrame ∧
    decode (.frame [0x00, 0xFF]) = .ok (.badFrame 0x00) ∧
    decode (.frame [0x02, 0x80, 0x01, 0x10]) = .ok (.longFrame 0x02 272) ∧
    decode (.frame [0x03, 0x15]) = .ok (.shortFrame 3 0x15) ∧ decode (.frame [0x02, 0x80, 0x01]) = .error (.needBytes 4) :=
  ⟨rfl, rfl, rfl, rfl, rfl, rfl⟩

/-- R125: the plain rows. -/
theorem test_decode_kinds :
    decode (.kind 0xFF false 1) = .ok (.kindUnknownFF 1) ∧ decode (.kind 0x81 true 9) = .ok (.kindDfdecl true 9) ∧
    decode (.kind 0x81 true 8) = .ok (.kindUnknownShortdecl true 8) ∧ decode (.kind 0x82 true 3) = .ok (.kindDiary true 3) ∧
    decode (.kind 0x83 true 3) = .ok (.kindOpl true 3) ∧ decode (.kind 0x84 true 3) = .ok (.kindComms true 3) ∧
    decode (.kind 0x85 true 3) = .ok (.kindSheet true 3) ∧ decode (.kind 0x86 true 3) = .ok (.kindPager true 3) ∧
    decode (.kind 0x87 false 3) = .ok (.kindNotes false 3) ∧ decode (.kind 0x80 false 0) = .ok (.kindUnknown80 0) :=
  ⟨rfl, rfl, rfl, rfl, rfl, rfl, rfl, rfl, rfl, rfl⟩

/-- R125: the rows with free bits in the type code. -/
theorem test_decode_kind_ranges :
    decode (.kind 0x8F true 3) = .ok (.kindUnknown88 true 7 3) ∧ decode (.kind 0x95 true 3) = .ok (.kindData90 true 5 3) ∧
    decode (.kind 0xA1 true 3) = .ok (.kindDataA0 true 1 3) ∧ decode (.kind 0xBF true 3) = .ok (.kindDataA0 true 0x1F 3) ∧
    decode (.kind 0xC2 true 3) = .ok (.kindDataC0 true 2 3) ∧ decode (.kind 0xFE true 3) = .ok (.kindDataE0 true 0x1E 3) :=
  ⟨rfl, rfl, rfl, rfl, rfl, rfl⟩

/-- The words of the table in its own numbering: b0 the high byte of a pair. -/
theorem test_decode_table_pairs :
    decodeTableWord 16 0xFF00 = some .endFrame ∧ decodeTableWord 16 0x02FF = some (.badFrame 2) ∧
    decodeTableWord 16 0x0280 = some (.longFrame 2 0) ∧ decodeTableWord 16 0x0302 = some (.shortFrame 3 2) ∧
    decodeTableWord 16 0x0395 = some (.kindData90 true 5 3) := ⟨rfl, rfl, rfl, rfl, rfl⟩

/-- The micro-operations' selectors. -/
theorem test_decode_micro :
    decode (.micro .csaClr) = .ok .csaClr ∧ decode (.micro (.csaAddHi 0x0F)) = .ok (.csaAddHi 0x0F) ∧
    decode (.micro (.csaAddLo 0x0C)) = .ok (.csaAddLo 0x0C) ∧ decode (.micro (.csaCmp 0x0E3A)) = .ok (.csaCmp 0x0E3A) ∧
    decode (.micro .walkStep) = .ok .walkStep ∧ decode (.micro .lineStep) = .ok .lineStep := ⟨rfl, rfl, rfl, rfl, rfl, rfl⟩

/-- R126: ASCII, case-sensitive, exact. -/
theorem test_decode_lines :
    decode (.line [0x58, 0x58, 0x57, 0x72, 0x69, 0x74, 0x65]) = .ok .lineXXWrite ∧
    decode (.line [0x58, 0x58, 0x52, 0x65, 0x61, 0x64]) = .ok .lineXXRead ∧
    decode (.line [0x58, 0x58, 0x45, 0x78, 0x69, 0x74]) = .ok .lineXXExit ∧
    decode (.line [0x78, 0x58, 0x45, 0x78, 0x69, 0x74]) = .error .notControlLine ∧
    decodeTableWord 48 0x585845786974 = some .lineXXExit := ⟨rfl, rfl, rfl, rfl, rfl⟩

/-! The spec's worked examples, one step each -/

/-- R141, R142: their examples, with the carries. -/
theorem test_csa_adds :
    (after (exec (.csaAddHi 0x0F) { State.reset with csa := 0xFF04 })).csa = 0x0E04 ∧
    (after (exec (.csaAddLo 0x0C) { State.reset with csa := 0x0E04 })).csa = 0x0E10 ∧
    (after (exec (.csaAddLo 0x20) { State.reset with csa := 0x00F0 })).csa = 0x0110 ∧
    (after (exec (.csaAddLo 0x01) { State.reset with csa := 0xFFFF })).csa = 0 := by decide

/-- R140, R143: their examples. -/
theorem test_csa_clr_cmp :
    (after (exec .csaClr { State.reset with csa := 0xBEEF })).csa = 0 ∧
    (after (exec (.csaCmp 0x0E3A) { State.reset with csa := 0x0E3A })).csMatch = true ∧
    (after (exec (.csaCmp 0x0B3E) { State.reset with csa := 0x0E3A })).csMatch = false := by decide

/-- R146: the example, and eight bytes 0xFF. -/
theorem test_csum :
    (after (exec (.csum (fixture.take 8)) State.reset)).hrsp.result = .csum 0x0E3A ∧
    (after (exec (.csum (List.replicate 8 0xFF)) State.reset)).csa = 0xFFFC := by decide

/-- R148: its three examples, with BOOT_SENSE = 1. -/
theorem test_csumCheck :
    (checkHeader defaults fixture State.reset).2 = .isMatch ∧
    (checkHeader defaults (fixture.take 8 ++ [0x0B, 0x3E]) State.reset).2 = .mismatch ∧
    (checkHeader defaults (0x95 :: fixture.drop 1) State.reset).2 = .notApplicable := by decide

/-- R291: CSUM_CHECK and HDR_PARSE clear CSA, also for a boot-mode header. -/
theorem test_boot_header_clears_csa :
    (checkHeader defaults (0x95 :: fixture.drop 1) { State.reset with csa := 5 }).1.csa = 0 ∧
    (parseHeader defaults (0x95 :: fixture.drop 1) { State.reset with csa := 5 }).1.csa = 0 := by decide

/-- R144: the example. -/
theorem test_hdrParse :
    (parseHeader defaults fixture State.reset).2 =
      { id := 0x85, ram := true, paged := true, writeProtected := true, sizeCode := 2, capacity := 16384,
        mode := .timestamp
          { yr := 0x7A, mth := 2, day := 0x0F, hr := 0x0C, counter := 42, year := 2022, month := 3, dayOfMonth := 16,
            hour := 12 },
        stored := 0x0E3A, computed := some 0x0E3A, result := .isMatch } := by decide

/-- R151: the example with PACK_TYPE = 1 and RECOMPUTE = 1; R156: without RECOMPUTE. -/
theorem test_hdrPatch :
    (after (exec (.hdrPatch fixture 0x11) State.reset)).hrsp.result =
      .patched [0x87, 0x02, 0x7A, 0x02, 0x0F, 0x0C, 0x00, 0x2A, 0x10, 0x3A] ∧
    (after (exec (.hdrPatch fixture 0x01) State.reset)).hrsp.result =
      .patched [0x87, 0x02, 0x7A, 0x02, 0x0F, 0x0C, 0x00, 0x2A, 0x0E, 0x3A] := by decide

/-- R152: the example. -/
theorem test_patchId : patchId 0x7A 0x0E = 0x74 := by decide

/-- R188: the example, and the refused form. -/
theorem test_frameEnc :
    Memory.bytes (sinkOf (after (exec (.frameEnc (.short 0x95 [0x41, 0x42, 0x43]) 2) State.reset)) 2) =
      [0x03, 0x95, 0x41, 0x42, 0x43] ∧
    (after (exec (.frameEnc (.short 0x80 []) 2) State.reset)).status = 0x31 := by decide

/-- R170, R173, R174: a deleted data record with the default DF_ID_OF. -/
theorem test_frameClassify :
    classifyBytes defaults [0x03, 0x15, 0x41] =
      .short { len := 3, type := 0x15, t := 0x95, deleted := true, kind := .data, size := 5, dfId := some 5, decl := none } ∧
    classifyBytes defaults [0x02, 0x80, 0x01] = .incomplete 4 := by decide

/-- R197: the checks in their order, and an accepted container. -/
theorem test_decode_start :
    (after (exec (.decode [0x4F, 0x50]) State.reset)).status = 0x01 ∧
    (after (exec (.decode [0x4F, 0x50, 0x4B, 0]) State.reset)).status = 0x02 ∧
    (after (exec (.decode (containerOf (zeroHeader.take 9))) State.reset)).status = 0x02 ∧
    (after (exec (.decode (containerOf zeroHeader)) State.reset)).wstate = .wHeader := by decide

/-- R203: a pack with one BAD frame and a tail, no patch. -/
theorem test_encode :
    Memory.bytes (sinkOf (after (exec (.encode { hdr := fixture, recs := [.bad 0], tail := [0xFF] } 0 1) State.reset)) 1) =
      [0x4F, 0x50, 0x4B, 0, 0, 13] ++ fixture ++ [0x00, 0xFF, 0xFF] := by decide

/-- R180: the frames of the worked examples. -/
theorem test_walk_end_bad :
    (after (exec .walkStep (walkAt [0xFF, 0xFF]))).endAddr = 0x0A ∧
    (after (exec .walkStep (walkAt [0x00, 0xFF]))).cur = 0x0C ∧
    (after (exec .endFrame (walkAt [0xFF]))).wstate = .wEnd ∧
    (after (exec (.badFrame 0) (walkAt [0x00, 0xFF]))).nBad = 1 := by decide

/-- R180: the LONG of the example, and a frame that passes SIZE. -/
theorem test_walk_long :
    (after (exec .walkStep (walkAt ([0x00, 0x80, 0x00, 0x10] ++ List.replicate 16 0x41 ++ [0xFF])))).cur = 0x1E ∧
    (after (exec (.longFrame 0 2) (walkAt [0x00, 0x80, 0x00, 0x02, 0x41]))).wstate = .wTrunc := by decide

/-- R202: the first record of the example, with no declaration before it. -/
theorem test_short_data :
    (after (walkShort defaults .data 2 0x95 (walkAt [0x02, 0x95, 0x41, 0x42]))).diag = 0x08 ∧
    (after (walkShort defaults .data 2 0x95 (walkAt [0x02, 0x95, 0x41, 0x42]))).cur = 0x0E ∧
    (after (walkShort defaults .data 2 0x95 (walkAt [0x02, 0x95, 0x41, 0x42]))).recs.map (fun e => e.dfId) = [some 5] := by
  decide

/-- R184, R185: a declaration is registered at its address. -/
theorem test_short_dfdecl :
    (after (walkShort defaults .dfdecl 9 0x81
      (walkAt [0x09, 0x81, 0x4D, 0x41, 0x49, 0x4E, 0x20, 0x20, 0x20, 0x20, 0x05]))).reg =
      [{ name := [0x4D, 0x41, 0x49, 0x4E, 0x20, 0x20, 0x20, 0x20], id := 0x05, declAddr := 0x0A }] := by decide

/-- R125, R172: the plain rows note their kind and whether the record is deleted. -/
theorem test_kind_rows :
    (after (exec (.kindDiary true 0) (walkAt [0, 0x82]))).recs.map (fun e => (e.kind, e.deleted, e.b1)) =
      [(some .diary, some false, 0x82)] ∧
    (after (exec (.kindNotes false 0) (walkAt [0, 0x07]))).recs.map (fun e => (e.kind, e.deleted, e.b1)) =
      [(some .notes, some true, 0x07)] ∧
    (after (exec (.kindUnknown80 0) (walkAt [0, 0x00]))).recs.map (fun e => (e.kind, e.deleted, e.b1)) =
      [(some .unknown, some true, 0x00)] := by decide

/-- The middle rows of the same table. -/
theorem test_kind_rows_middle :
    (after (exec (.kindOpl true 0) (walkAt [0, 0x83]))).recs.map (fun e => e.kind) = [some .opl] ∧
    (after (exec (.kindComms true 0) (walkAt [0, 0x84]))).recs.map (fun e => e.kind) = [some .comms] ∧
    (after (exec (.kindSheet true 0) (walkAt [0, 0x85]))).recs.map (fun e => e.kind) = [some .sheet] ∧
    (after (exec (.kindPager true 0) (walkAt [0, 0x86]))).recs.map (fun e => e.kind) = [some .pager] ∧
    (after (exec (.kindUnknownShortdecl true 0) (walkAt [0, 0x81]))).recs.map (fun e => e.kind) = [some .unknown] ∧
    (after (exec (.kindUnknown88 true 7 0) (walkAt [0, 0x8F]))).recs.map (fun e => e.b1) = [0x8F] ∧
    (after (exec (.kindUnknownFF 0) (walkAt [0, 0x7F]))).recs.map (fun e => e.b1) = [0x7F] := by decide

/-- The data rows keep the frame's own type byte. -/
theorem test_data_rows :
    (after (kindRow .data (0x9#4 ++ 5#4) true 0 (walkAt [0, 0x95]))).recs.map (fun e => e.b1) = [0x95] ∧
    (after (kindRow .data (0x5#3 ++ 1#5) false 0 (walkAt [0, 0x21]))).recs.map (fun e => e.b1) = [0x21] ∧
    (after (kindRow .data (0x6#3 ++ 2#5) true 0 (walkAt [0, 0xC2]))).recs.map (fun e => e.b1) = [0xC2] ∧
    (after (kindRow .data (0x7#3 ++ 0x1E#5) true 0 (walkAt [0, 0xFE]))).recs.map (fun e => e.b1) = [0xFE] := by decide

/-- R230, R236: a session opens and closes; R238, R248: the operations start. -/
theorem test_session :
    (after (exec (.sessionOpen 0 1 0x8000) State.reset)).xstate = .xIdle ∧
    (after (exec .sessionClose (session []))).xstate = .xClosed ∧
    (after (exec (.startWrite 0) (session []))).xstate = .wrCheck ∧
    (after (exec (.startRead 0) (session []))).xstate = .rdInit := by decide

/-- R233: the control lines. -/
theorem test_lines :
    (after (exec .lineXXWrite (session []))).opkind = .write ∧ (after (exec .lineXXRead (session []))).opkind = .read ∧
    (after (exec .lineXXExit (session []))).chOpen = false := by decide

/-- R232: the LF of "XXRead" CR LF starts the read operation. -/
theorem test_line_step :
    (after (recogniserStep defaults
      { session [] with linebuf := [0x58, 0x58, 0x52, 0x65, 0x61, 0x64, 0x0D], rxq := [0x0A] })).xstate = .rdInit := by
  decide

/-- R246: the payload byte at address 8 is the high byte of the checksum of the bytes sent. -/
theorem test_patched_byte : patchedByte 8 0x0E { State.reset with scfg := 0x11, csa := 0x103A } = 0x10 := by decide

/-- R258: the run of NUM_FF_CHK = 3 retracts ADDR from 4 to 2. -/
theorem test_retraction :
    (stopAfter defaults { reading sentinel with addr := 4, ffrun := 3 }).addr = 2 ∧
    (stopAfter defaults { reading sentinel with addr := 4, ffrun := 2 }).addr = 4 := by decide

/-- R272, decision D35: a transport error at the echo's Tx keeps the byte taken in DST and closes the session. -/
theorem test_abort_keeps_taken_byte :
    Memory.bytes (sinkOf (after (echoPayload defaults 0x41 { reading fixed3 with chErr := true })) 1) =
      readPrefix ++ [0x41] ∧
    (after (echoPayload defaults 0x41 { reading fixed3 with chErr := true })).xstate = .xClosed ∧
    (after (echoPayload defaults 0x41 { reading fixed3 with chErr := true })).txq = [] := by decide

/-- R137: a declaration padded to eight characters, and the header fixture with its checksum AUTO. -/
theorem test_notation :
    notationDfdecl [0x4D, 0x41, 0x49, 0x4E] 5 =
      some (.short 0x81 [0x4D, 0x41, 0x49, 0x4E, 0x20, 0x20, 0x20, 0x20, 0x05]) ∧
    notationData defaults 5 [0x41] = some (.short 0x95 [0x41]) ∧
    notationHeader 0x85 0x02 0x7A 0x02 0x0F 0x0C 42 none = fixture := by decide

/-! Witnesses: states and operands that meet the hypotheses of each statement, at the boundaries of its clauses -/

theorem witness_CsumIsWordPairSum :
    State.reset.busy = false ∧ List.replicate 8 (0xFF : Byte) = [0xFF, 0xFF, 0xFF, 0xFF, 0xFF, 0xFF, 0xFF, 0xFF] ∧
    (fixture.take 7).length ≠ 8 ∧ (fixture.take 9).length ≠ 8 := by decide

theorem witness_CsumCheckVerdict : State.reset.busy = false ∧ fixture.length = 10 := by decide

theorem witness_HdrParseFields : (session []).busy = false := by decide

theorem witness_HdrPatchBytes : (session []).busy = false ∧ cfgPackType 0xFFFFFFFFFE ≠ 3#2 := by decide

theorem witness_PatchIdBits : cfgPackType 0x0E ≠ 3#2 ∧ cfgPackType 0 ≠ 3#2 ∧ cfgPackType 1 ≠ 3#2 := by decide

theorem witness_HdrPatchIdentity :
    State.reset.busy = false ∧ fixture.length = 10 ∧ identityCfg 0 = true ∧ identityCfg 0xFFFFFFFFC0 = true := by decide

theorem witness_FrameClassifyAnswers :
    State.reset.busy = false ∧ (0xFE : Byte) ≠ 0xFF#8 ∧ ([0x01] : List Byte).length < 2 ∧ (0x7F : Byte) ≠ 0xFF#8 ∧
    (0x81 : Byte) ≠ 0x80#8 := by decide

theorem witness_FrameEncEffect :
    State.reset.busy = false ∧ State.reset.xstate.inOperation = false ∧ Store.wf State.reset.sinks = true ∧
    frameBytes (.short 0x81 (List.replicate 254 0)) = some (254#8 :: 0x81 :: List.replicate 254 0) ∧
    frameBytes (.short 0x81 (List.replicate 255 0)) = none :=
  ⟨rfl, rfl, rfl,
    by rw [frameBytes, if_neg (by rw [List.length_replicate]; decide), List.length_replicate],
    by rw [frameBytes, if_pos (Or.inl (by rw [List.length_replicate]; decide))]⟩

theorem witness_FrameRoundTrip :
    frameBytes .endF = some [0xFF] ∧ frameBytes (.bad 0xFE) = some [0xFE, 0xFF] ∧
    frameBytes (.long 0 [0x41]) = some [0x00, 0x80, 0x00, 0x01, 0x41] ∧
    frameBytes (.short 0x00 []) = some [0x00, 0x00] ∧ ready State.reset = true ∧ fixture.length = 10 := by decide

/-- Every class of byte pair at CUR, a frame that ends at SIZE, and frames cut one byte short. -/
theorem witness_WalkStepEffect :
    (walkAt []).wstate = .wRecords ∧ (walkAt []).cur.toNat = (walkAt []).size.toNat ∧
    imgByte (walkAt [0xFF]) (walkAt [0xFF]).cur.toNat = .ok 0xFF#8 ∧
    imgByte (walkAt [0xFE]) 10 = .ok 0xFE#8 ∧ (walkAt [0xFE]).size.toNat < (walkAt [0xFE]).cur.toNat + 2 ∧
    imgByte (walkAt [0xFE, 0xFF]) 11 = .ok 0xFF#8 ∧
    imgByte (walkAt [0x02, 0x80, 0x00]) 11 = .ok 0x80#8 ∧ (walkAt [0x02, 0x80, 0x00]).size.toNat < 10 + 4 ∧
    imgByte (walkAt [0x02, 0x80, 0x00, 0x01, 0x41]) 13 = .ok 0x01#8 ∧
    imgBytes (walkAt [0x02, 0x80, 0x00, 0x01, 0x41]) 14 1 = .ok [0x41] ∧
    (walkAt [0x02, 0x80, 0x00, 0x02, 0x41]).size.toNat < 10 + 4 + 2 ∧
    imgByte (walkAt [0x00, 0x81]) 11 = .ok 0x81#8 := by decide

theorem witness_FrameClassEffect :
    (walkAt [0x02, 0xFF]).wstate = .wRecords ∧ (walkAt [0x02, 0xFF]).cur.toNat < (walkAt [0x02, 0xFF]).size.toNat ∧
    (walkAt [0x02, 0xFF]).cur.toNat + 2 ≤ (walkAt [0x02, 0xFF]).size.toNat ∧
    (walkAt [0x02]).size.toNat < (walkAt [0x02]).cur.toNat + 2 ∧
    imgBytes (walkAt [0x02, 0x80, 0x00, 0x01, 0x41]) 14 (0x0001 : BitVec 16).toNat = .ok [0x41] ∧
    (walkAt [0x02, 0x80, 0x00, 0x01, 0x41]).cur.toNat + 4 + (0x0001 : BitVec 16).toNat
      ≤ (walkAt [0x02, 0x80, 0x00, 0x01, 0x41]).size.toNat ∧
    (walkAt [0x02, 0x80, 0x00, 0x01]).size.toNat < (walkAt [0x02, 0x80, 0x00, 0x01]).cur.toNat + 4 +
      (0x0001 : BitVec 16).toNat := by decide

/-- The first and the last of the row's disjuncts, with a frame that ends at SIZE. -/
theorem witness_PlainKindRows :
    ((Instr.kindDiary true 1, Kind.diary, (0x82 : Byte)) = (.kindDiary true 1, .diary, 0x82#8)) ∧
    ((Instr.kindUnknown88 true 7 1, Kind.unknown, (0x8F : Byte)) =
      (.kindUnknown88 true 7 1, .unknown, 0x88#8 + (7 : BitVec 3).zeroExtend 8)) ∧
    ((Instr.kindUnknown80 1, Kind.unknown, (0x80 : Byte)) = (.kindUnknown80 1, .unknown, 0x80#8)) ∧
    (walkAt [1, 0x82, 0x41]).wstate = .wRecords ∧
    (walkAt [1, 0x82, 0x41]).cur.toNat + 2 + (1 : Byte).toNat ≤ (walkAt [1, 0x82, 0x41]).size.toNat ∧
    imgBytes (walkAt [1, 0x82, 0x41]) ((walkAt [1, 0x82, 0x41]).cur.toNat + 2) (1 : Byte).toNat = .ok [0x41] := by decide

/-- A frame at 0x0A of nine payload bytes, the shortest declaration. -/
def declWalk : State := walkAt [0x09, 0x81, 0x4D, 0x41, 0x49, 0x4E, 0x20, 0x20, 0x20, 0x20, 0x05]

theorem witness_DeclarationRegisters :
    9 ≤ (9 : Byte).toNat ∧ declWalk.wstate = .wRecords ∧ declWalk.cur.toNat + 2 + (9 : Byte).toNat ≤ declWalk.size.toNat ∧
    imgBytes declWalk (declWalk.cur.toNat + 2) (9 : Byte).toNat =
      .ok [0x4D, 0x41, 0x49, 0x4E, 0x20, 0x20, 0x20, 0x20, 0x05] := by decide

theorem witness_DataRecordsResolve :
    ((Instr.kindData90 true 0 0, (0x90 : Byte)) = (.kindData90 true 0 0, 0x90#8 + (0 : BitVec 4).zeroExtend 8)) ∧
    ((Instr.kindDataE0 true 0x1E 0, (0xFE : Byte)) = (.kindDataE0 true 0x1E 0, 0xE0#8 + (0x1E : BitVec 5).zeroExtend 8)) ∧
    (walkAt [0, 0x90]).wstate = .wRecords ∧
    (walkAt [0, 0x90]).cur.toNat + 2 + (0 : Byte).toNat ≤ (walkAt [0, 0x90]).size.toNat ∧
    imgBytes (walkAt [0, 0x90]) ((walkAt [0, 0x90]).cur.toNat + 2) (0 : Byte).toNat = .ok [] := by decide

theorem witness_KindRowsAreShortFrames :
    wellFormed (.kindDfdecl true 9) = true ∧ encode (.kindDfdecl true 9) = .kind 0x81 true 9 ∧
    wellFormed (.kindDataE0 false 0x1E 0xFE) = true ∧ encode (.kindDataE0 false 0x1E 0xFE) = .kind 0xFE false 0xFE := by
  decide

theorem witness_ShortFrameAppends :
    (walkAt [1, 0x15, 0x41]).wstate = .wRecords ∧ (walkAt [1, 0x15, 0x41]).cur.toNat < (walkAt [1, 0x15, 0x41]).size.toNat ∧
    (walkAt [1, 0x15, 0x41]).cur.toNat + 2 + (1 : Byte).toNat ≤ (walkAt [1, 0x15, 0x41]).size.toNat ∧
    imgBytes (walkAt [1, 0x15, 0x41]) 12 (1 : Byte).toNat = .ok [0x41] ∧ kindOf 0x15 1 ≠ .dfdecl ∧ kindOf 0x82 1 ≠ .data ∧
    (walkAt [1, 0x15]).size.toNat < (walkAt [1, 0x15]).cur.toNat + 2 + (1 : Byte).toNat := by decide

theorem witness_RegistryLastWins :
    (∀ x ∈ [({ name := [], id := 6, declAddr := 12 } : RegEntry)], x.id ≠ (5 : Byte)) ∧
    (∀ x ∈ ([] : List RegEntry), x.id ≠ (5 : Byte)) := by decide

/-- One container for each outcome, and the shortest accepted one. -/
theorem witness_DecodeAcceptance :
    State.reset.busy = false ∧ State.reset.xstate.inOperation = false ∧
    ([0x4F, 0x50] : List Byte).take 3 ≠ [0x4F#8, 0x50#8, 0x4B#8] ∧
    ([0x4F, 0x50, 0x4B, 0, 0] : List Byte).length < 6 ∧
    (be24 ((containerOf (zeroHeader.take 9)).getD 3 0) ((containerOf (zeroHeader.take 9)).getD 4 0)
      ((containerOf (zeroHeader.take 9)).getD 5 0)).toNat < 10 ∧
    acceptable (containerOf zeroHeader) = true := by decide

/-- The DECODE of a container of this image, accepted and not yet begun. -/
def atHeader (img : List Byte) : State := { walking img 0 with wstate := .wHeader }

theorem witness_DecodeHeaderStep :
    (atHeader fixture).sched = [] ∧ (atHeader fixture).busy = true ∧ (atHeader fixture).xstate.inOperation = false ∧
    (atHeader fixture).wstate = .wHeader ∧ Memory.wf (atHeader fixture).src = true ∧ 10 ≤ (atHeader fixture).size.toNat ∧
    6 + (atHeader fixture).size.toNat ≤ (atHeader fixture).src.length := by decide

/-- A walk that ended at a sentinel with one byte after it. -/
def ended : State := { walkAt [0xFF, 0x41] with wstate := .wEnd, endAddr := 0x0A, endValid := true }

theorem witness_DecodeResultStep :
    ended.sched = [] ∧ ended.busy = true ∧ ended.xstate.inOperation = false ∧ ended.wstate = .wEnd ∧ ended.endValid = true ∧
    Memory.wf ended.src = true ∧ ended.cur.toNat ≤ ended.size.toNat ∧ 6 + ended.size.toNat ≤ ended.src.length ∧
    (walkAt []).cur.toNat = (walkAt []).size.toNat ∧
    6 + (walkAt []).size.toNat = (walkAt []).src.length ∧ (session []).busy = false ∧ ended.hdr.length = 10 := by decide

theorem witness_DecodeCompletes :
    ready State.reset = true ∧ ready (session []) = true ∧ acceptable (containerOf zeroHeader) = true ∧
    acceptable (containerOf (fixture ++ [0x02, 0x95, 0x41, 0x42, 0x00, 0xFF, 0xFF, 0xFF])) = true := by decide

/-- One step of a run. -/
theorem runBusy_step {s t : State} {n : Nat} (hb : s.busy = true) (h : step s = .next t) :
    runBusy (n + 1) s = runBusy n t := by simp [runBusy, hb, h]

/-- The container of ten zero header bytes and a sentinel. -/
def zeros : List Byte := containerOf (zeroHeader ++ [0xFF])

/-- Its DECODE right after acceptance. -/
def zerosAccepted : State := after (exec (.decode zeros) State.reset)

/-- Its DECODE right after the header step: CSA is 0 whatever BOOT_SENSE is, and only a timestamp header compares it. -/
def zerosWalk : State :=
  { zerosAccepted with cur := 10, wstate := .wRecords, csMatch := Config.params.bootSense }

theorem zeros_header : step zerosAccepted = .next zerosWalk := by
  show decodeHeader Config.params zerosAccepted = _
  have hb : bootMode Config.params zeroHeader = (false == Config.params.bootSense) := rfl
  have hi : imgBytes zerosAccepted 0 10 = .ok zeroHeader := rfl
  unfold decodeHeader
  rw [hi]
  unfold parseHeader checkHeader zerosWalk
  simp only [orFault, hb]
  cases h : Config.params.bootSense <;> rfl

theorem zeros_walk : step zerosWalk = .next { zerosWalk with wstate := .wEnd, endAddr := 10, endValid := true } := rfl

theorem zeros_decode : ∃ pack, decodesTo State.reset zeros pack ∧ pack.hdr = zeroHeader ∧ pack.recs = [] ∧
    pack.tail = [0xFF] ∧ pack.size = 11 :=
  ⟨_, ⟨zerosAccepted, 3, _, rfl, ((runBusy_step rfl zeros_header).trans (runBusy_step rfl zeros_walk)).trans
    (runBusy_step rfl rfl), rfl, rfl, rfl⟩, rfl, rfl, rfl, rfl⟩

theorem witness_EncodeOfDecodeIsByteIdentity :
    ∃ pack, ready State.reset = true ∧ decodesTo State.reset zeros pack ∧ identityCfg 0x4000 = true ∧
      (cfgHwBound 0x4000 = true → pack.size.toNat ≤ 0xFFFF) ∧ (session []).busy = false ∧
      Store.wf (session []).sinks = true := by
  obtain ⟨pack, hd, -, -, -, hs⟩ := zeros_decode
  exact ⟨pack, rfl, hd, rfl, fun _ => by rw [hs]; decide, rfl, rfl⟩

theorem witness_DecodeEncodeRoundTrip :
    ∃ pack t, ready State.reset = true ∧ decodesTo State.reset zeros pack ∧ identityCfg 0 = true ∧
      State.reset.busy = false ∧ Store.wf State.reset.sinks = true ∧
      exec (.encode (packOperand pack) 0 1) State.reset = .next t ∧ t.status = 0x00 ∧ ready (session []) = true := by
  obtain ⟨pack, hd, hh, hr, ht, -⟩ := zeros_decode
  have hp : packOperand pack = { hdr := zeroHeader, recs := [], tail := [0xFF] } := by simp [packOperand, hh, hr, ht]
  exact ⟨pack, _, rfl, hd, rfl, rfl, rfl, by rw [hp]; rfl, rfl, rfl⟩

theorem witness_DecodeIsPure :
    ∃ pack, ready State.reset = true ∧ ready (session []) = true ∧ decodesTo State.reset zeros pack := by
  obtain ⟨pack, hd, -⟩ := zeros_decode
  exact ⟨pack, rfl, rfl, hd⟩

theorem witness_CodecAnswersArePure :
    ∃ t t', isCodecCommand (.csum (fixture.take 8)) = true ∧ (∀ src, Instr.csum (fixture.take 8) ≠ .decode src) ∧
      State.reset.busy = false ∧ (session []).busy = false ∧
      exec (.csum (fixture.take 8)) State.reset = .next t ∧ exec (.csum (fixture.take 8)) (session []) = .next t' :=
  ⟨_, _, rfl, fun _ => Instr.noConfusion, rfl, rfl, rfl, rfl⟩

/-- A pack whose image has exactly this many bytes: ten of header, a BAD frame, and a tail. -/
def packOf (n : Nat) : PackOperand := { hdr := fixture, recs := [.bad 0], tail := List.replicate (n - 12) 0 }

theorem packOf_size {n : Nat} (h : 12 ≤ n) : 10 + (([0x00, 0xFF] : List Byte).length + (packOf n).tail.length) = n := by
  simp only [packOf, List.length_replicate, List.length_cons, List.length_nil]; omega

theorem witness_EncodeWritesContainer :
    State.reset.busy = false ∧ (packOf 0xFFFF).hdr.length = 10 ∧ cfgPackType 0x4011 ≠ 3#2 ∧
    packBytes (packOf 0xFFFF).recs = some [0x00, 0xFF] ∧
    10 + (([0x00, 0xFF] : List Byte).length + (packOf 0xFFFFFF).tail.length) ≤ 0xFFFFFF ∧
    (cfgHwBound 0x4011 = true → 10 + (([0x00, 0xFF] : List Byte).length + (packOf 0xFFFF).tail.length) ≤ 0xFFFF) ∧
    Store.wf State.reset.sinks = true :=
  ⟨rfl, rfl, by decide, rfl, by rw [packOf_size (by decide)], fun _ => by rw [packOf_size (by decide)], rfl⟩

theorem witness_EncodeAborts :
    State.reset.busy = false ∧ State.reset.xstate.inOperation = false ∧ (packOf 0x10000).hdr.length = 10 ∧
    cfgPackType 0x4011 ≠ 3#2 ∧ Store.wf State.reset.sinks = true ∧ packBytes [.bad 0, .bad 0xFF] = none ∧
    packBytes (packOf 0x10000).recs = some [0x00, 0xFF] ∧ cfgHwBound 0x4011 = true ∧
    0xFFFF < 10 + (([0x00, 0xFF] : List Byte).length + (packOf 0x10000).tail.length) ∧
    0xFFFFFF < 10 + (([0x00, 0xFF] : List Byte).length + (packOf 0x1000000).tail.length) :=
  ⟨rfl, rfl, rfl, by decide, rfl, rfl, rfl, rfl, by rw [packOf_size (by decide)]; decide,
    by rw [packOf_size (by decide)]; decide⟩

theorem witness_EncodeSizeCeiling :
    State.reset.busy = false ∧ State.reset.xstate.inOperation = false ∧ (packOf 0x10000).hdr.length = 10 ∧
    cfgPackType 0x4000 ≠ 3#2 ∧ cfgHwBound 0x4000 = true ∧ packBytes (packOf 0x10000).recs = some [0x00, 0xFF] ∧
    Store.wf State.reset.sinks = true ∧
    10 + (([0x00, 0xFF] : List Byte).length + (packOf 0x10000).tail.length) = 0x10000 ∧
    10 + (([0x00, 0xFF] : List Byte).length + (packOf 0xFFFF).tail.length) = 0xFFFF :=
  ⟨rfl, rfl, rfl, by decide, rfl, rfl, rfl, packOf_size (by decide), packOf_size (by decide)⟩

theorem witness_SessionOpenAndClose :
    State.reset.busy = false ∧ State.reset.xstate = .xClosed ∧ cfgPackType 0x8000 ≠ 3#2 ∧ State.reset.chErr = false ∧
    ({ State.reset with chErr := true }).xstate = .xClosed ∧ (session []).busy = false ∧ (session []).xstate = .xIdle := by
  decide

theorem witness_StartCommandsEnterOperation :
    (session []).busy = false ∧ (session []).xstate = .xIdle ∧ cfgPackType 0x8000 ≠ 3#2 := by decide

theorem witness_ControlLinesEffect :
    (session []).xstate = .xIdle ∧ (session []).busy = false ∧ State.reset.xstate ≠ .xIdle ∧
    ({ session [] with busy := true }).busy = true := by decide

theorem lineMax_pos (p : Params) : 0 < lineMax p := Nat.succ_pos _

/-- A line of exactly LINE_MAX bytes, one shorter, each of the three control lines, the empty line and another one. -/
theorem witness_LineStepEffect :
    (session []).xstate = .xIdle ∧ (session []).busy = false ∧ ({ session [] with chErr := true }).chErr = true ∧
    (session []).rxq = [] ∧ (0x0D : Byte) ≠ 0x0A#8 ∧
    (List.replicate (lineMax Config.params - 1) (0x58 : Byte)).length < lineMax Config.params ∧
    lineMax Config.params ≤ (List.replicate (lineMax Config.params) (0x58 : Byte)).length ∧
    ({ session [] with rxq := [0x0A] }).rxq = 0x0A#8 :: [] ∧ (session []).lineOvf = false ∧
    ({ session [] with lineOvf := true }).lineOvf = true ∧
    stripCr (bytesXXWrite ++ [0x0D]) = bytesXXWrite ∧ stripCr bytesXXRead = bytesXXRead ∧
    stripCr bytesXXExit = bytesXXExit ∧ stripCr [0x0D] = [] ∧ stripCr [0x58] = [0x58] := by
  refine ⟨rfl, rfl, rfl, rfl, by decide, ?_, ?_, rfl, rfl, rfl, rfl, rfl, rfl, rfl, rfl⟩
  · rw [List.length_replicate]; have := lineMax_pos Config.params; omega
  · rw [List.length_replicate]

theorem witness_BusyRefusesEveryCommand :
    isHostCommand .sessionClose = true ∧ isHostCommand (.decode []) = true ∧ (running .wrEcho .write).busy = true ∧
    ({ running .wrEcho .write with sched := [.env (.hostCommand { opcode := 0x09, args := noArgs })] }).sched =
      .env (.hostCommand { opcode := 0x09, args := noArgs }) :: [] := ⟨rfl, rfl, rfl, rfl⟩

theorem witness_RefusalsInOrder :
    (session []).busy = false ∧ (session []).xstate ≠ .xClosed ∧ State.reset.xstate ≠ .xIdle ∧
    (fixture.take 9).length ≠ 10 ∧ cfgPackType badCfg = 3#2 ∧ fixture.length = 10 ∧ State.reset.xstate = .xClosed ∧
    (session []).xstate = .xIdle := by decide

/-- The unassigned opcodes next to the assigned ones. -/
theorem witness_UnassignedOpcodeRefused :
    ready { session [] with hcmd := [{ opcode := 0x09, args := noArgs }] } = true ∧ lineEvent (session []) = false ∧
    (0x00 : Byte).toNat ∉ [0x01, 0x02, 0x03, 0x04, 0x05, 0x06, 0x07, 0x08, 0x10, 0x11, 0x20, 0x21] ∧
    (0x09 : Byte).toNat ∉ [0x01, 0x02, 0x03, 0x04, 0x05, 0x06, 0x07, 0x08, 0x10, 0x11, 0x20, 0x21] ∧
    (0x22 : Byte).toNat ∉ [0x01, 0x02, 0x03, 0x04, 0x05, 0x06, 0x07, 0x08, 0x10, 0x11, 0x20, 0x21] := by decide

theorem witness_CodecLeavesTransfer :
    ∃ s1 t, isCodecCommand (.csum (fixture.take 8)) = true ∧ (session []).xstate = .xIdle ∧ (session []).busy = false ∧
      (session []).sched = [] ∧ exec (.csum (fixture.take 8)) (session []) = .next s1 ∧ runBusy 0 s1 = .next t :=
  ⟨_, _, rfl, rfl, rfl, rfl, rfl, rfl⟩

theorem witness_TransferLeavesCodec :
    ∃ t, (running .wrCheck .write).xstate.inOperation = true ∧ (running .wrCheck .write).sched = [] ∧
      step (running .wrCheck .write) = .next t := ⟨_, rfl, rfl, rfl⟩

/-- Sources at the boundaries of the check: no size field, a wrong magic, 0x10000 and 0xFFFF declared, one byte missing. -/
theorem witness_WriteCheckOutcomes :
    (running .wrCheck .write).sched = [] ∧ (running .wrCheck .write).xstate = .wrCheck ∧
    (running .wrCheck .write).srcBind = some 0 ∧
    Memory.bytes (Store.get (running .wrCheck .write).sources 0) = containerOf [0x41, 0x42] ∧
    ([0x4F, 0x50, 0x4B, 0, 0] : List Byte).length < 6 ∧
    ([0x4F, 0x50, 0x4C, 0, 0, 0] : List Byte).take 3 ≠ [0x4F#8, 0x50#8, 0x4B#8] ∧
    0xFFFF < (be24 0x01 0x00 0x00).toNat ∧ ¬ 0xFFFF < (be24 0x00 0xFF 0xFF).toNat ∧
    ([0x4F, 0x50, 0x4B, 0, 0, 1] : List Byte).length - 6 < (be24 0 0 1).toNat := by decide

theorem witness_DrainTokenAndSize :
    (running .wrDrain .write).sched = [] ∧ (running .wrDrain .write).chErr = false ∧
    ({ running .wrDrain .write with drainLeft := 1, rxq := [0x41] }).drainLeft = 0 + 1 ∧
    (running .wrDrain .write).drainLeft = 0 ∧
    (writeToken Config.params)[(running .wrToken .write).tidx.toNat]? = some 0x58#8 ∧
    (running .wrSize .write).tidx = 0 ∧ ({ running .wrSize .write with tidx := 1, tsize := 1 }).tidx = 1 ∧
    (running .wrSize .write).addr.toNat < ({ running .wrSize .write with tidx := 1, tsize := 1 }).tsize.toNat ∧
    (running .wrSize .write).tsize.toNat ≤ (running .wrSize .write).addr.toNat :=
  ⟨rfl, rfl, rfl, rfl, rfl, rfl, rfl, by decide, by decide⟩

/-- The last byte of the token. -/
theorem witness_DrainTokenAndSize_last :
    ∃ b, (writeToken Config.params)[(BitVec.ofNat 16 ((writeToken Config.params).length - 1)).toNat]? = some b := by
  have h : 2 ≤ (writeToken Config.params).length ∧ (writeToken Config.params).length ≤ 65536 := by
    simp only [writeToken, List.length_cons, List.length_take]; omega
  have hl : (BitVec.ofNat 16 ((writeToken Config.params).length - 1)).toNat < (writeToken Config.params).length := by
    rw [BitVec.toNat_ofNat, Nat.mod_eq_of_lt (by omega)]; omega
  exact ⟨_, List.getElem?_eq_getElem hl⟩

/-- The echo of LAST_TX, of another byte, none, and a transport error in each state; the last byte of the image and one
before it. -/
theorem witness_SendAndEcho :
    (running .wrSend .write).sched = [] ∧ (running .wrSend .write).chErr = false ∧
    (running .wrSend .write).srcBind = some 0 ∧
    Memory.read (Store.get (running .wrSend .write).sources 0) (6 + (running .wrSend .write).addr.toNat) = some 0x41#8 ∧
    ({ running .wrEcho .write with rxq := [0x00], tsize := 1 }).rxq = [0x00] ∧ (0x00 : Byte) = (running .wrEcho .write).lastTx ∧
    ((running .wrEcho .write).addr + 1).toNat < (2 : BitVec 24).toNat ∧
    (1 : BitVec 24).toNat ≤ ((running .wrEcho .write).addr + 1).toNat ∧ (0x01 : Byte) ≠ (running .wrEcho .write).lastTx ∧
    (running .wrEcho .write).rxq = [] ∧ ({ running .wrSize .write with chErr := true }).chErr = true ∧
    ({ running .wrSend .write with chErr := true }).xstate = .wrSend ∧
    ({ running .wrDrain .write with chErr := true, drainLeft := 1, rxq := [0x41] }).drainLeft ≠ 0 := by decide

/-- A write of a container of two bytes. -/
theorem witness_WriteSendsPatchedImage :
    (running .wrCheck .write).sched = [] ∧ (running .wrCheck .write).busy = true ∧
    (running .wrCheck .write).xstate = .wrCheck ∧ (running .wrCheck .write).addr = 0 ∧
    (running .wrCheck .write).chErr = false ∧ (running .wrCheck .write).rxq = [] ∧
    (running .wrCheck .write).timer = false ∧ (running .wrCheck .write).srcBind = some 0 ∧
    Store.wf (running .wrCheck .write).sources = true ∧
    Memory.bytes (Store.get (running .wrCheck .write).sources 0) = [0x4F, 0x50, 0x4B, 0, 0, 2, 0x41, 0x42] ∧
    (containerSize [0x4F, 0x50, 0x4B, 0, 0, 2, 0x41, 0x42]).toNat = 2 ∧
    (([0x4F, 0x50, 0x4B, 0, 0, 2, 0x41, 0x42] : List Byte).drop 6).take 2 = [0x41, 0x42] := by decide

theorem witness_ReadPrefixAndSizeBytes :
    (running .rdInit .read).sched = [] ∧ (running .rdInit .read).xstate = .rdInit ∧
    (running .rdInit .read).dstBind = some 1 ∧ Store.wf (running .rdInit .read).sinks = true ∧
    (running .rdSize .read).xstate = .rdSize ∧ (running .rdSize .read).chErr = false ∧
    ({ running .rdSize .read with rxq := [0x01], rdSizeBytes := [0x00] }).rdSizeBytes.length < 2 ∧
    ({ running .rdSize .read with rxq := [0x01], rdSizeBytes := [0x00, 0x00] }).rdSizeBytes = [0x00, 0x00] ∧
    (running .rdSize .read).rxq = [] := by decide

/-- Fixed mode at the limit and one byte before it, with a transport error, a queued byte and none; sentinel mode at the
declared length, at the ADDR ceiling and one byte before it; a byte held, with a transport error and without; and
RD_FINISH. -/
theorem witness_ReadPayloadSteps :
    (reading fixed3).sched = [] ∧ (reading fixed3).dstBind = some 1 ∧ Store.wf (reading fixed3).sinks = true ∧
    (reading fixed3).xstate = .rdWait ∧ (reading fixed3).rdPending = none ∧ cfgTermMode fixed3 = false ∧
    min (cfgTargetLen fixed3).toNat (0x10 : BitVec 24).toNat ≤ (3 : BitVec 24).toNat ∧
    (∀ p, stopBefore p { reading fixed3 with tsize := 0x10, addr := 2 } = false) ∧
    atCeiling { reading fixed3 with tsize := 0x10, addr := 2 } = false ∧ (reading fixed3).chErr = false ∧
    ({ reading fixed3 with rxq := [0x41], chErr := true }).rxq = [0x41] ∧ cfgTermMode sentinel = true ∧
    (0xFFFFFE : BitVec 24).toNat ≤ (0xFFFFFE : BitVec 24).toNat ∧
    stopBefore defaults { reading sentinel with tsize := 0x10, addr := 0xFFFFFF, rxq := [0x41] } = false ∧
    atCeiling { reading sentinel with addr := 0xFFFFFF, rxq := [0x41] } = true ∧
    atCeiling { reading sentinel with addr := 0xFFFFFE } = false ∧ (reading sentinel).rxq = [] ∧
    ({ reading fixed3 with rdPending := some 0xFF, chErr := true }).rdPending = some 0xFF ∧
    6 + (reading fixed3).addr.toNat ≤ (sinkOf (reading fixed3) 1).length :=
  ⟨rfl, rfl, rfl, rfl, rfl, rfl, by decide, fun _ => rfl, rfl, rfl, rfl, rfl, Nat.le_refl _, rfl, rfl, rfl, rfl, rfl,
    by decide⟩

theorem witness_FixedReadCaptures :
    (running .rdInit .read).sched = [] ∧ (running .rdInit .read).busy = true ∧ (running .rdInit .read).xstate = .rdInit ∧
    (running .rdInit .read).addr = 0 ∧ (running .rdInit .read).ffrun = 0 ∧ (running .rdInit .read).rdPending = none ∧
    (running .rdInit .read).timer = false ∧ (running .rdInit .read).chErr = false ∧
    (running .rdInit .read).dstBind = some 1 ∧ Store.wf (running .rdInit .read).sinks = true ∧ cfgTermMode fixed3 = false ∧
    ({ running .rdInit .read with scfg := fixed3, rxq := [0, 0, 16, 0x41, 0xFF, 0xFF, 0x58] }).rxq =
      [0, 0, 16] ++ [0x41, 0xFF, 0xFF] ++ [0x58] ∧
    ([0x41, 0xFF, 0xFF] : List Byte).length = min (cfgTargetLen fixed3).toNat (be24 0 0 16).toNat ∧
    ([] : List Byte).length = min (cfgTargetLen fixed3).toNat (be24 0 0 0).toNat := by decide

/-- The trailing run of a string of 0xFF bytes is all of it. -/
theorem ffTail_replicate (n : Nat) : ffTail (List.replicate n 0xFF#8) = n := by
  unfold ffTail
  rw [List.reverse_replicate]
  induction n with
  | zero => rfl
  | succ n ih => simp [List.replicate_succ]

theorem numFfChk_bounds (p : Params) : 1 ≤ (numFfChk p).toNat ∧ (numFfChk p).toNat ≤ 255 := by
  have := p.numFfChkPred.isLt
  rw [numFfChk, BitVec.toNat_ofNat, Nat.mod_eq_of_lt (by omega)]
  omega

/-- The hypotheses of SentinelReadRetracts together, with the size bytes all `d`. -/
def SentinelCapture (d : Byte) : Prop :=
  ∃ (qs : List Byte) (s : State), s.sched = [] ∧ s.busy = true ∧ s.xstate = .rdInit ∧ s.addr = 0 ∧ s.ffrun = 0 ∧
    s.rdPending = none ∧ s.timer = false ∧ s.chErr = false ∧ s.dstBind = some 1 ∧ Store.wf s.sinks = true ∧
    cfgTermMode s.scfg = true ∧ s.rxq = [d, d, d] ++ qs ++ [] ∧ qs.length ≤ 0xFFFFFF ∧
    (Config.params.sentinelBounded = true → qs.length ≤ (be24 d d d).toNat) ∧
    ffTail qs = (numFfChk Config.params).toNat ∧
    (∀ j, j < qs.length → ffTail (qs.take j) < (numFfChk Config.params).toNat) ∧
    1 + ((numFfChk Config.params).toNat - 1) = qs.length

/-- NUM_FF_CHK bytes 0xFF, whatever NUM_FF_CHK is. -/
theorem sentinelCapture_of {d : Byte} (hd : Config.params.sentinelBounded = true → d = 0xFF) : SentinelCapture d := by
  have hk := numFfChk_bounds Config.params
  have hm : cfgTermMode sentinel = true := rfl
  refine ⟨List.replicate (numFfChk Config.params).toNat 0xFF#8,
    { running .rdInit .read with
      scfg := sentinel, rxq := [d, d, d] ++ List.replicate (numFfChk Config.params).toNat 0xFF#8 ++ [] },
    rfl, rfl, rfl, rfl, rfl, rfl, rfl, rfl, rfl, rfl, hm, rfl, ?_, fun hb => ?_, ffTail_replicate _, ?_, ?_⟩
  · rw [List.length_replicate]; omega
  · rw [List.length_replicate, hd hb, show (be24 0xFF 0xFF 0xFF).toNat = 0xFFFFFF from rfl]; omega
  · intro j hj
    rw [List.length_replicate] at hj
    rw [List.take_replicate, ffTail_replicate]; omega
  · rw [List.length_replicate]; omega

/-- The shortest capture, under the longest declared length. -/
theorem witness_SentinelReadRetracts : SentinelCapture 0xFF := sentinelCapture_of fun _ => rfl

/-- Where SENTINEL_BOUNDED is false, a capture that passes a declared length of 0. -/
theorem witness_SentinelReadRetracts_pastTsize (h : Config.params.sentinelBounded = false) : SentinelCapture 0x00 :=
  sentinelCapture_of fun hb => absurd (h.symm.trans hb) Bool.false_ne_true

theorem witness_TimerExpiry :
    ({ running .wrEcho .write with timer := true, sched := [.env .timerExpires] }).sched = [.env .timerExpires] ∧
    ({ running .wrEcho .write with timer := true }).timer = true ∧ (running .wrEcho .write).rxq = [] ∧
    (running .wrEcho .write).chErr = false ∧ (running .wrEcho .write).xstate.inOperation = true ∧
    (running .wrEcho .write).timer = false := by decide

/-- An open session in X_IDLE meets the invariant. -/
theorem session_inv (p : Params) : Inv p (session (containerOf [0x41, 0x42])) := by
  constructor <;> first
    | rfl
    | decide
    | exact ⟨.ok, rfl, rfl⟩
    | exact Nat.zero_le _
    | (intro h; simp [session, State.reset] at h)

theorem witness_StepKeepsInvariant :
    ∃ t, Inv Config.params (session (containerOf [0x41, 0x42])) ∧ step (session (containerOf [0x41, 0x42])) = .next t :=
  ⟨_, session_inv _, rfl⟩

theorem witness_StepStopsOnlyOnHostDuty :
    Inv Config.params (session (containerOf [0x41, 0x42])) ∧ hostKeepsDuty (session (containerOf [0x41, 0x42])) = true ∧
    hostKeepsDuty { running .wrSend .write with sched := [.env (.fillSource 1 [])] } = true := ⟨session_inv _, rfl, rfl⟩

theorem witness_StepRunsDecoded :
    (session []).sched = [] ∧ (session []).xstate.inOperation = false ∧ (session []).busy = false ∧
    lineEvent (session []) = false ∧
    decode (.host { opcode := 0x21, args := noArgs }) = .ok .sessionClose ∧
    (walkAt [0x02, 0xFF]).busy = true ∧ (walkAt [0x02, 0xFF]).wstate = .wRecords ∧
    imgBytes (walkAt [0x02, 0xFF]) (walkAt [0x02, 0xFF]).cur.toNat 2 = .ok [0x02, 0xFF] ∧
    decode (.frame [0x02, 0xFF]) = .ok (.badFrame 0x02) ∧
    ({ session [] with linebuf := bytesXXExit, rxq := [0x0A] }).rxq = 0x0A#8 :: [] ∧
    decode (.line (stripCr bytesXXExit)) = .ok .lineXXExit :=
  ⟨rfl, rfl, rfl, rfl, rfl, rfl, rfl, rfl, rfl, rfl, rfl⟩

theorem witness_DecodeInvertsEncode :
    wellFormed (.kindDataE0 true 0x1E 0xFE) = true ∧ wellFormed (.longFrame 0x02 0xFFFF) = true ∧
    wellFormed (.hdrPatch fixture 0) = true ∧ wellFormed .lineXXExit = true := by decide

end Sys2Proof.Tests
end

namespace Sys2Proof.Machine

/-! The checksum unit's additions: CSA_ADD_HI and CSA_ADD_LO as sums of naturals modulo 2^16 (R141, R142) -/

theorem addHi_eq_ofNat (csa : BitVec 16) (b : Byte) :
    addHi csa b = BitVec.ofNat 16 ((csa.toNat + b.toNat * 256) % 65536) := by
  apply BitVec.eq_of_toNat_eq
  simp [addHi]

theorem addLo_eq_ofNat (csa : BitVec 16) (b : Byte) :
    addLo csa b = BitVec.ofNat 16 ((csa.toNat + b.toNat) % 65536) := by
  apply BitVec.eq_of_toNat_eq
  simp [addLo]

/-- The addend of CSA_ADD_HI is a multiple of 256, so nothing is added below bit 8. -/
theorem addHi_low_byte (csa : BitVec 16) (b : Byte) :
    (addHi csa b).extractLsb' 0 8 = csa.extractLsb' 0 8 := by
  rw [addHi_eq_ofNat]
  apply BitVec.eq_of_toNat_eq
  simp only [BitVec.extractLsb'_toNat, BitVec.toNat_ofNat, Nat.shiftRight_zero]
  omega

theorem exec_csaAddHi (b : Byte) (s : State) : exec (.csaAddHi b) s = .next (csaAddHigh b s) := rfl

theorem exec_csaAddLo (b : Byte) (s : State) : exec (.csaAddLo b) s = .next (csaAddLow b s) := rfl

/-- Settles O4: the sum is `addHi_eq_ofNat`, the kept low byte `addHi_low_byte`. -/
theorem csaAddHiModular : Obligations.CsaAddHiModular := by
  unfold Obligations.CsaAddHiModular
  intro b s
  rw [exec_csaAddHi]
  constructor
  · rw [csaAddHigh, addHi_eq_ofNat]
  · rintro t ⟨⟩
    exact addHi_low_byte s.csa b

/-- Settles O5: the sum is `addLo_eq_ofNat`. -/
theorem csaAddLoModular : Obligations.CsaAddLoModular := by
  unfold Obligations.CsaAddLoModular
  intro b s
  rw [exec_csaAddLo, csaAddLow, addLo_eq_ofNat]

/-! The header feed: two bytes fed in turn add one big-endian word, four words the checksum (R145 to R147) -/

theorem addLo_addHi (csa : BitVec 16) (h l : Byte) : addLo (addHi csa h) l = csa + be16 h l := by
  have word : (be16 h l).toNat = h.toNat * 256 + l.toNat := by
    rw [be16, BitVec.toNat_append, ← Nat.shiftLeft_add_eq_or_of_lt l.isLt, Nat.shiftLeft_eq]
  apply BitVec.eq_of_toNat_eq
  rw [addLo_eq_ofNat, addHi_eq_ofNat, BitVec.toNat_add, word]
  simp only [BitVec.toNat_ofNat]
  omega

/-- From an even index on, the next two bytes add their big-endian word to CSA. -/
theorem csaFeedAll_word {i : Nat} (hi : i % 2 = 0) (h l : Byte) (bs : List Byte) (s : State) :
    csaFeedAll i (h :: l :: bs) s = csaFeedAll (i + 2) bs { s with csa := s.csa + be16 h l } := by
  have odd : (i + 1) % 2 ≠ 0 := by omega
  calc csaFeedAll i (h :: l :: bs) s
      = csaFeedAll (i + 2) bs (csaFeed (i + 1) l (csaFeed i h s)) := rfl
    _ = csaFeedAll (i + 2) bs (csaAddLow l (csaAddHigh h s)) := by simp only [csaFeed, if_pos hi, if_neg odd]
    _ = csaFeedAll (i + 2) bs { s with csa := s.csa + be16 h l } := by rw [← addLo_addHi]; rfl

/-- CSUM of at least eight bytes leaves the checksum of the first eight in CSA and nothing else changed. -/
theorem csumBytes_eq_checksum (h0 h1 h2 h3 h4 h5 h6 h7 : Byte) (rest : List Byte) (s : State) :
    csumBytes (h0 :: h1 :: h2 :: h3 :: h4 :: h5 :: h6 :: h7 :: rest) s =
      { s with csa := checksum [h0, h1, h2, h3, h4, h5, h6, h7] } := by
  have first8 : (h0 :: h1 :: h2 :: h3 :: h4 :: h5 :: h6 :: h7 :: rest).take 8 = [h0, h1, h2, h3, h4, h5, h6, h7] := rfl
  rw [csumBytes, first8, csaFeedAll_word rfl, csaFeedAll_word rfl, csaFeedAll_word rfl, csaFeedAll_word rfl, csaFeedAll]
  simp [csaClear, checksum]

/-! The patch of the id byte, bit by bit (R152): each mask is one bit, set by `|||` or cleared by `&&&` -/

theorem getLsbD_or_bit (b : Byte) {k : Nat} (hk : k < 8) (i : Nat) :
    (b ||| BitVec.twoPow 8 k).getLsbD i = (decide (i = k) || b.getLsbD i) := by
  simp [hk, Bool.or_comm, eq_comm]

theorem getLsbD_and_not_bit (b : Byte) (k : Nat) {i : Nat} (hi : i < 8) :
    (b &&& ~~~ BitVec.twoPow 8 k).getLsbD i = (decide (i ≠ k) && b.getLsbD i) := by
  rw [BitVec.getLsbD_and, BitVec.getLsbD_not, BitVec.getLsbD_twoPow]
  by_cases bit : i = k
  · simp [← bit, hi]
  · simp [bit, Ne.symm bit, hi]

theorem getLsbD_patchPackType (cfg : BitVec 40) (b : Byte) {i : Nat} (hi : i < 8) :
    (patchPackType cfg b).getLsbD i =
      if i = 1 then (if cfgPackType cfg = 1#2 then true else if cfgPackType cfg = 2#2 then false else b.getLsbD 1)
      else b.getLsbD i := by
  have setMask : 0x02#8 = BitVec.twoPow 8 1 := rfl
  have clearMask : 0xFD#8 = ~~~ BitVec.twoPow 8 1 := rfl
  rw [patchPackType, setMask, clearMask]
  by_cases forceRom : cfgPackType cfg = 1#2
  · rw [if_pos forceRom, if_pos forceRom, getLsbD_or_bit b (by decide)]
    split <;> simp [*]
  · rw [if_neg forceRom, if_neg forceRom]
    by_cases forceRam : cfgPackType cfg = 2#2
    · rw [if_pos forceRam, if_pos forceRam, getLsbD_and_not_bit b 1 hi]
      split <;> simp [*]
    · rw [if_neg forceRam, if_neg forceRam]
      split <;> simp [*]

theorem getLsbD_patchPaged (cfg : BitVec 40) (b : Byte) (i : Nat) :
    (patchPaged cfg b).getLsbD i = (decide (i = 2) && cfgSetPaged cfg || b.getLsbD i) := by
  have setMask : 0x04#8 = BitVec.twoPow 8 2 := rfl
  rw [patchPaged, setMask]
  cases cfgSetPaged cfg
  · simp
  · simpa using getLsbD_or_bit b (k := 2) (by decide) i

theorem getLsbD_patchWp (cfg : BitVec 40) (b : Byte) {i : Nat} (hi : i < 8) :
    (patchWp cfg b).getLsbD i = (!(decide (i = 3) && cfgSetWp cfg) && b.getLsbD i) := by
  have clearMask : 0xF7#8 = ~~~ BitVec.twoPow 8 3 := rfl
  rw [patchWp, clearMask]
  cases cfgSetWp cfg
  · simp
  · simpa using getLsbD_and_not_bit b 3 hi

/-- The three patches touch distinct bits: each bit of the patched id is one patch's or the operand's. -/
theorem getLsbD_patchId (b : Byte) (cfg : BitVec 40) {i : Nat} (hi : i < 8) :
    (patchId b cfg).getLsbD i =
      if i = 1 then (if cfgPackType cfg = 1#2 then true else if cfgPackType cfg = 2#2 then false else b.getLsbD 1)
      else if i = 2 then cfgSetPaged cfg || b.getLsbD 2
      else if i = 3 then !cfgSetWp cfg && b.getLsbD 3
      else b.getLsbD i := by
  rw [patchId, getLsbD_patchWp cfg _ hi, getLsbD_patchPaged, getLsbD_patchPackType cfg b hi]
  by_cases packTypeBit : i = 1
  · simp [packTypeBit]
  · by_cases pagedBit : i = 2
    · simp [pagedBit]
    · by_cases wpBit : i = 3
      · simp [wpBit]
      · simp [packTypeBit, pagedBit, wpBit]

/-- Settles O11: `getLsbD_patchId` at each of the eight bits. -/
theorem patchIdBits : Obligations.PatchIdBits := by
  unfold Obligations.PatchIdBits
  intro b cfg _
  have bit {i : Nat} (hi : i < 8) := getLsbD_patchId b cfg hi
  refine ⟨bit (i := 1) (by decide), bit (i := 2) (by decide), bit (i := 3) (by decide), ?_⟩
  rintro i (rfl | rfl | rfl | rfl | rfl) <;> exact bit (by decide)

/-! HDR_PATCH (R151, R153, R154) -/

theorem exec_hdrPatch (h : List Byte) (cfg : BitVec 40) (s : State) : exec (.hdrPatch h cfg) s = execHdrPatch h cfg s := rfl

theorem cfgLegal_of_packType {cfg : BitVec 40} (hp : cfgPackType cfg ≠ 3#2) : cfgLegal cfg = true := by
  simpa [cfgLegal] using hp

/-- With BUSY = 0, ten bytes and a legal PACK_TYPE, HDR_PATCH patches from the accepted state with CFG loaded. -/
theorem exec_hdrPatch_runs {h : List Byte} {cfg : BitVec 40} {s : State} (hb : s.busy = false) (hl : h.length = 10)
    (hp : cfgPackType cfg ≠ 3#2) : exec (.hdrPatch h cfg) s = hdrPatchBody h cfg (accept s) := by
  rw [exec_hdrPatch, execHdrPatch]
  exact hostCommand_runs hb rfl (by simp [hl]) (cfgLegal_of_packType hp)

theorem patchHeader_keep {cfg : BitVec 40} (hr : cfgRecompute cfg ≠ true) (h : List Byte) (s : State) :
    patchHeader h cfg s = (s, patchedHead h cfg) := if_neg hr

/-- With RECOMPUTE the checksum of the patched bytes 0..7 goes to CSA and, high byte first, to bytes 8..9 (R154). -/
theorem patchHeader_recompute {cfg : BitVec 40} (hr : cfgRecompute cfg = true) {h rest : List Byte}
    {g0 g1 g2 g3 g4 g5 g6 g7 : Byte} (hg : patchedHead h cfg = g0 :: g1 :: g2 :: g3 :: g4 :: g5 :: g6 :: g7 :: rest)
    (s : State) :
    patchHeader h cfg s =
      ({ s with csa := checksum [g0, g1, g2, g3, g4, g5, g6, g7] },
        [g0, g1, g2, g3, g4, g5, g6, g7, hi8 (checksum [g0, g1, g2, g3, g4, g5, g6, g7]),
          lo8 (checksum [g0, g1, g2, g3, g4, g5, g6, g7])]) := by
  rw [patchHeader, if_pos hr, hg, csumBytes_eq_checksum]
  rfl

/-- Settles O10: HDR_PATCH runs its body, which recomputes by `patchHeader_recompute` or keeps the two checksum bytes. -/
theorem hdrPatchBytes : Obligations.HdrPatchBytes := by
  unfold Obligations.HdrPatchBytes
  intro h0 h1 h2 h3 h4 h5 h6 h7 h8 h9 cfg s hb hp
  refine ⟨patchId h0 cfg, patchSizeCode h1 cfg, _, rfl, rfl, rfl, ?_⟩
  rw [exec_hdrPatch_runs hb rfl hp, hdrPatchBody]
  split
  case isTrue hr =>
    rw [patchHeader_recompute hr rfl]
    rfl
  case isFalse hr =>
    rw [patchHeader_keep hr]
    rfl

end Sys2Proof.Machine

namespace Sys2Proof.Machine

/-! The rows of R112, one equation each, in the order in which `classify` tries them (R171) -/

theorem classify_endF (b1 : Byte) : classify 0xFF#8 b1 = .endF := rfl

theorem classify_bad {b0 : Byte} (notEnd : b0 ≠ 0xFF#8) : classify b0 0xFF#8 = .bad := by
  rw [classify, if_neg notEnd, if_pos rfl]

theorem classify_long {b0 : Byte} (notEnd : b0 ≠ 0xFF#8) : classify b0 0x80#8 = .long := by
  rw [classify, if_neg notEnd, if_neg (by decide), if_pos rfl]

theorem classify_short {b0 b1 : Byte} (notEnd : b0 ≠ 0xFF#8) (notBad : b1 ≠ 0xFF#8) (notLong : b1 ≠ 0x80#8) :
    classify b0 b1 = .short := by
  rw [classify, if_neg notEnd, if_neg notBad, if_neg notLong]

/-- Settles O13: every byte pair falls under one of the four rows, whose equation gives its class. -/
theorem classifyTable : Obligations.ClassifyTable := by
  unfold Obligations.ClassifyTable
  intro b0 b1
  by_cases endRow : b0 = 0xFF#8
  · simp [endRow, classify_endF]
  · by_cases badRow : b1 = 0xFF#8
    · simp [endRow, badRow, classify_bad]
    · by_cases longRow : b1 = 0x80#8
      · simp [endRow, longRow, classify_long]
      · simp [endRow, badRow, longRow, classify_short]

/-! The kinds of R125 by the type code as a natural (R172) -/

/-- A record of type code 0x81 is a DFDECL if it holds a declaration's nine bytes, and of no other kind if it does not. -/
theorem kindOfCode_declaration (len : Nat) : kindOfCode 0x81#8 len = if 9 ≤ len then .dfdecl else .unknown := rfl

/-- But for 0x81 the type code alone gives the kind. -/
theorem kindOfCode_of_ne_declaration {t : Byte} (notDecl : t ≠ 0x81#8) (len : Nat) :
    kindOfCode t len =
      if t.toNat = 0x82 then .diary
      else if t.toNat = 0x83 then .opl
      else if t.toNat = 0x84 then .comms
      else if t.toNat = 0x85 then .sheet
      else if t.toNat = 0x86 then .pager
      else if t.toNat = 0x87 then .notes
      else if 0x90 ≤ t.toNat ∧ t.toNat ≤ 0xFE then .data
      else .unknown := by
  rw [kindOfCode, if_neg notDecl]
  simp only [BitVec.toNat_eq, BitVec.reduceToNat]

/-- Settles O14: the length matters for type code 0x81 only. -/
theorem kindTable : Obligations.KindTable := by
  unfold Obligations.KindTable
  intro type len
  rw [kindOf, typeCode]
  by_cases decl : type ||| 0x80#8 = 0x81#8
  · rw [decl, kindOfCode_declaration]
    by_cases long : 9 ≤ len
    · simp [long]
    · simp [long]
  · have notRow : ¬ ((type ||| 0x80#8).toNat = 0x81 ∧ 9 ≤ len) := fun row => decl (BitVec.eq_of_toNat_eq row.1)
    rw [kindOfCode_of_ne_declaration decl, if_neg notRow]

end Sys2Proof.Machine

namespace Sys2Proof.Machine

/-! The encoder's frames and kind rows read back, one equation per row (R107 to R126) -/

theorem be16_hi8_lo8 (w : BitVec 16) : be16 (hi8 w) (lo8 w) = w := by
  apply BitVec.eq_of_toNat_eq
  rw [be16, BitVec.toNat_append, ← Nat.shiftLeft_add_eq_or_of_lt (lo8 w).isLt, Nat.shiftLeft_eq]
  simp only [hi8, lo8, BitVec.extractLsb'_toNat, Nat.shiftRight_eq_div_pow]
  omega

theorem decodeFrame_bad {lead : Byte} (notEnd : lead ≠ 0xFF#8) (rest : List Byte) :
    decodeFrame (lead :: 0xFF#8 :: rest) = .ok (.badFrame lead) := by
  simp only [decodeFrame, if_neg notEnd, classify_bad notEnd]

theorem decodeFrame_long {lead : Byte} (notEnd : lead ≠ 0xFF#8) (h l : Byte) (rest : List Byte) :
    decodeFrame (lead :: 0x80#8 :: h :: l :: rest) = .ok (.longFrame lead (be16 h l)) := by
  simp only [decodeFrame, if_neg notEnd, classify_long notEnd]

theorem decodeFrame_short {b0 b1 : Byte} (notEnd : b0 ≠ 0xFF#8) (notBad : b1 ≠ 0xFF#8) (notLong : b1 ≠ 0x80#8)
    (rest : List Byte) : decodeFrame (b0 :: b1 :: rest) = .ok (.shortFrame b0 b1) := by
  simp only [decodeFrame, if_neg notEnd, classify_short notEnd notBad notLong]

/-- Past the tests on `t` and `len`, a type code above 0x87 falls in one of the ranges of R125. -/
theorem decodeKind_range {t len : Byte} (notEnd : len ≠ 0xFF#8) (above : 0x87 < t.toNat) (notFF : t ≠ 0xFF#8)
    (live : Bool) :
    decodeKind t live len =
      if t.toNat < 0x90 then .ok (.kindUnknown88 live (t.extractLsb' 0 3) len)
      else if t.toNat < 0xA0 then .ok (.kindData90 live (t.extractLsb' 0 4) len)
      else if t.toNat < 0xC0 then .ok (.kindDataA0 live (t.extractLsb' 0 5) len)
      else if t.toNat < 0xE0 then .ok (.kindDataC0 live (t.extractLsb' 0 5) len)
      else .ok (.kindDataE0 live (t.extractLsb' 0 5) len) := by
  have below {v : Byte} (hv : v.toNat ≤ 0x87) : t ≠ v := fun e => by rw [e] at above; omega
  rw [decodeKind, if_neg (by omega), if_neg notEnd, if_neg notFF, if_neg (below (by decide)), if_neg (below (by decide)),
    if_neg (below (by decide)), if_neg (below (by decide)), if_neg (below (by decide)), if_neg (below (by decide)),
    if_neg (below (by decide)), if_neg (below (by decide))]

theorem decodeKind_unknown88 {len : Byte} (notEnd : len ≠ 0xFF#8) (live : Bool) (low : BitVec 3) :
    decodeKind (0x11#5 ++ low) live len = .ok (.kindUnknown88 live low len) := by
  have row : ∀ x : BitVec 3, 0x87 < (0x11#5 ++ x).toNat ∧ (0x11#5 ++ x).toNat < 0x90 ∧ 0x11#5 ++ x ≠ 0xFF#8 ∧
    (0x11#5 ++ x).extractLsb' 0 3 = x := by decide
  obtain ⟨above, range, notFF, fields⟩ := row low
  rw [decodeKind_range notEnd above notFF, if_pos range, fields]

theorem decodeKind_data90 {len : Byte} (notEnd : len ≠ 0xFF#8) (live : Bool) (low : BitVec 4) :
    decodeKind (0x9#4 ++ low) live len = .ok (.kindData90 live low len) := by
  have row : ∀ x : BitVec 4, 0x90 ≤ (0x9#4 ++ x).toNat ∧ (0x9#4 ++ x).toNat < 0xA0 ∧ 0x9#4 ++ x ≠ 0xFF#8 ∧
    (0x9#4 ++ x).extractLsb' 0 4 = x := by decide
  obtain ⟨above, range, notFF, fields⟩ := row low
  rw [decodeKind_range notEnd (by omega) notFF, if_neg (by omega), if_pos range, fields]

theorem decodeKind_dataA0 {len : Byte} (notEnd : len ≠ 0xFF#8) (live : Bool) (low : BitVec 5) :
    decodeKind (0x5#3 ++ low) live len = .ok (.kindDataA0 live low len) := by
  have row : ∀ x : BitVec 5, 0xA0 ≤ (0x5#3 ++ x).toNat ∧ (0x5#3 ++ x).toNat < 0xC0 ∧ 0x5#3 ++ x ≠ 0xFF#8 ∧
    (0x5#3 ++ x).extractLsb' 0 5 = x := by decide
  obtain ⟨above, range, notFF, fields⟩ := row low
  rw [decodeKind_range notEnd (by omega) notFF, if_neg (by omega), if_neg (by omega), if_pos range, fields]

theorem decodeKind_dataC0 {len : Byte} (notEnd : len ≠ 0xFF#8) (live : Bool) (low : BitVec 5) :
    decodeKind (0x6#3 ++ low) live len = .ok (.kindDataC0 live low len) := by
  have row : ∀ x : BitVec 5, 0xC0 ≤ (0x6#3 ++ x).toNat ∧ (0x6#3 ++ x).toNat < 0xE0 ∧ 0x6#3 ++ x ≠ 0xFF#8 ∧
    (0x6#3 ++ x).extractLsb' 0 5 = x := by decide
  obtain ⟨above, range, notFF, fields⟩ := row low
  rw [decodeKind_range notEnd (by omega) notFF, if_neg (by omega), if_neg (by omega), if_neg (by omega), if_pos range,
    fields]

/-- The last range holds every low field but 0x1F, which is type code 0xFF. -/
theorem decodeKind_dataE0 {len : Byte} (notEnd : len ≠ 0xFF#8) {low : BitVec 5} (notLast : low ≠ 0x1F#5) (live : Bool) :
    decodeKind (0x7#3 ++ low) live len = .ok (.kindDataE0 live low len) := by
  have row : ∀ x : BitVec 5, x ≠ 0x1F#5 → 0xE0 ≤ (0x7#3 ++ x).toNat ∧ 0x7#3 ++ x ≠ 0xFF#8 ∧
    (0x7#3 ++ x).extractLsb' 0 5 = x := by decide
  obtain ⟨above, notFF, fields⟩ := row low notLast
  rw [decodeKind_range notEnd (by omega) notFF, if_neg (by omega), if_neg (by omega), if_neg (by omega),
    if_neg (by omega), fields]

/-- A type code of R125's single rows 0x80 to 0x87: the kind row stands in the table as it is. -/
theorem decodeKind_declaration {len : Byte} (notEnd : len ≠ 0xFF#8) (live : Bool) :
    decodeKind 0x81#8 live len =
      if 9 ≤ len.toNat then .ok (.kindDfdecl live len) else .ok (.kindUnknownShortdecl live len) := by
  rw [decodeKind, if_neg (by decide), if_neg notEnd, if_neg (by decide), if_pos rfl]

/-- Settles O59: the host commands, micro-operations and lines by their own rows, the frames and kinds by the equations
above. -/
theorem decodeInvertsEncode : Obligations.DecodeInvertsEncode := by
  unfold Obligations.DecodeInvertsEncode
  intro i wf
  have lenOk {len : Byte} : shortLenWellFormed len = true → len ≠ 0xFF#8 := by simp [shortLenWellFormed]
  cases i
  case badFrame lead =>
    have notEnd : lead ≠ 0xFF#8 := by simpa [wellFormed] using wf
    exact decodeFrame_bad notEnd []
  case longFrame lead len =>
    have notEnd : lead ≠ 0xFF#8 := by simpa [wellFormed] using wf
    exact (decodeFrame_long notEnd (hi8 len) (lo8 len) []).trans (by rw [be16_hi8_lo8])
  case shortFrame len type =>
    simp only [wellFormed, Bool.and_eq_true, bne_iff_ne] at wf
    obtain ⟨⟨notEnd, notLong⟩, notBad⟩ := wf
    exact decodeFrame_short (lenOk notEnd) notBad notLong []
  case kindDfdecl live len =>
    simp only [wellFormed, Bool.and_eq_true, decide_eq_true_eq] at wf
    obtain ⟨notEnd, nine⟩ := wf
    exact (decodeKind_declaration (lenOk notEnd) live).trans (if_pos nine)
  case kindUnknownShortdecl live len =>
    have less : len.toNat < 9 := by simpa [wellFormed] using wf
    have notEnd : len ≠ 0xFF#8 := fun e => by rw [e] at less; exact absurd less (by decide)
    exact (decodeKind_declaration notEnd live).trans (if_neg (by omega))
  case kindUnknown88 live low len => exact decodeKind_unknown88 (lenOk wf) live low
  case kindData90 live low len => exact decodeKind_data90 (lenOk wf) live low
  case kindDataA0 live low len => exact decodeKind_dataA0 (lenOk wf) live low
  case kindDataC0 live low len => exact decodeKind_dataC0 (lenOk wf) live low
  case kindDataE0 live low len =>
    simp only [wellFormed, Bool.and_eq_true, bne_iff_ne] at wf
    exact decodeKind_dataE0 (lenOk wf.1) wf.2 live
  case kindUnknownFF | kindDiary | kindOpl | kindComms | kindSheet | kindPager | kindNotes | kindUnknown80 =>
    simp [encode, decode, decodeKind, lenOk wf]
  all_goals rfl

/-- Settles O60: each word is a row of the tables with its fields filled in. -/
theorem sampleWordsDecode : Obligations.SampleWordsDecode := by
  unfold Obligations.SampleWordsDecode
  refine ⟨rfl, rfl, rfl, rfl, rfl, rfl, rfl, rfl, rfl, rfl⟩

/-- Settles O1: the fields of `State.reset`. -/
theorem resetRegisters : Obligations.ResetRegisters := by
  unfold Obligations.ResetRegisters
  and_intros <;> rfl

/-- Settles O3. -/
theorem csaClrZeroes : Obligations.CsaClrZeroes := by
  unfold Obligations.CsaClrZeroes
  intro s
  rfl

/-- Settles O6: the model's test `==` on words is the equality of the statement. -/
theorem csaCmpGivesMatch : Obligations.CsaCmpGivesMatch := by
  unfold Obligations.CsaCmpGivesMatch
  intro w s
  have exec_csaCmp : exec (.csaCmp w) s = .next (csaCompare w s) := rfl
  rw [exec_csaCmp, csaCompare]
  rfl

end Sys2Proof.Machine

namespace Sys2Proof.Machine

/-! Host commands: the refusals of R266 as equations, and what an accepted command's end leaves -/

theorem hostCommand_busy {legal formed ok : Bool} {body : State → Answer} {s : State} (hb : s.busy = true) :
    hostCommand legal formed ok body s = .next (refuseBusy s) := if_pos hb

theorem hostCommand_badCommand {legal formed ok : Bool} {body : State → Answer} {s : State} (hb : s.busy = false)
    (h : legal = false ∨ formed = false) :
    hostCommand legal formed ok body s = .next (answered s 0x32 .none) := by
  rcases h with rfl | rfl
  · simp only [hostCommand, hb]; rfl
  · cases legal <;> simp only [hostCommand, hb] <;> rfl

theorem hostCommand_badConfig {legal formed ok : Bool} {body : State → Answer} {s : State} (hb : s.busy = false)
    (hl : legal = true) (hf : formed = true) (hc : ok = false) :
    hostCommand legal formed ok body s = .next (answered s 0x30 .none) := by
  simp only [hostCommand, hb, hl, hf, hc]; rfl

/-! The checksum of a header operand (R144 to R148) -/

theorem be16_toNat (h l : Byte) : (be16 h l).toNat = h.toNat * 256 + l.toNat := by
  rw [be16, BitVec.toNat_append, ← Nat.shiftLeft_add_eq_or_of_lt l.isLt, Nat.shiftLeft_eq]

/-- CSUM of any header of eight bytes or more. -/
theorem csumBytes_checksum {h : List Byte} (hl : 8 ≤ h.length) (s : State) :
    csumBytes h s = { s with csa := checksum h } := by
  match h, hl with
  | h0 :: h1 :: h2 :: h3 :: h4 :: h5 :: h6 :: h7 :: rest, _ => rw [csumBytes_eq_checksum]; rfl

/-- The validator in both header modes (R148, R291). -/
theorem checkHeader_eq (p : Params) {h : List Byte} (hl : 8 ≤ h.length) (s : State) :
    checkHeader p h s =
      if (h.getD 0 0).getLsbD 4 = p.bootSense then (csaClear s, .notApplicable)
      else ({ s with csa := checksum h, csMatch := decide (checksum h = storedChecksum h) },
        if checksum h = storedChecksum h then .isMatch else .mismatch) := by
  simp only [checkHeader, bootMode, hdrByte, beq_iff_eq, csumBytes_checksum hl, csaCompare]
  rfl

theorem checksum_toNat (h0 h1 h2 h3 h4 h5 h6 h7 : Byte) :
    checksum [h0, h1, h2, h3, h4, h5, h6, h7] =
      BitVec.ofNat 16 ((h0.toNat * 256 + h1.toNat + (h2.toNat * 256 + h3.toNat) + (h4.toNat * 256 + h5.toNat) +
        (h6.toNat * 256 + h7.toNat)) % 65536) := by
  apply BitVec.eq_of_toNat_eq
  simp [checksum, be16_toNat]

theorem exec_csum (h : List Byte) (s : State) :
    exec (.csum h) s = hostCommand true (h.length == 8) true (csumBody h) s := rfl

theorem exec_csum_runs {h : List Byte} {s : State} (hb : s.busy = false) (hl : h.length = 8) :
    exec (.csum h) s = csumBody h (accept s) := hostCommand_runs hb rfl (by simp [hl]) rfl

theorem exec_csumCheck_runs {h : List Byte} {s : State} (hb : s.busy = false) (hl : h.length = 10) :
    exec (.csumCheck h) s = csumCheckBody Config.params h (accept s) := hostCommand_runs hb rfl (by simp [hl]) rfl

theorem exec_hdrParse_runs {h : List Byte} {s : State} (hb : s.busy = false) (hl : h.length = 10) :
    exec (.hdrParse h) s = hdrParseBody Config.params h (accept s) := hostCommand_runs hb rfl (by simp [hl]) rfl

/-- Settles O7: CSA_CLR and four words fed (`csumBytes_checksum`), and the refusal of an operand of another length. -/
theorem csumIsWordPairSum : Obligations.CsumIsWordPairSum := by
  unfold Obligations.CsumIsWordPairSum
  intro h s hb
  constructor
  · rintro h0 h1 h2 h3 h4 h5 h6 h7 rfl
    refine ⟨_, rfl, ?_⟩
    rw [exec_csum_runs hb rfl, csumBody, csumBytes_checksum (by simp), ← checksum_toNat]
    rfl
  · intro hl
    rw [exec_csum, hostCommand_badCommand hb (.inr (by simpa using hl))]

/-- Settles O8: `checkHeader_eq` in each header mode. -/
theorem csumCheckVerdict : Obligations.CsumCheckVerdict := by
  unfold Obligations.CsumCheckVerdict
  intro h s hb hl
  rw [exec_csumCheck_runs hb hl, csumCheckBody, checkHeader_eq _ (by omega)]
  split <;> rfl

theorem capacityOf_toNat (sizeCode : Byte) : (capacityOf sizeCode).toNat = sizeCode.toNat * 8192 := by
  have := sizeCode.isLt
  simp only [capacityOf, BitVec.toNat_mul, BitVec.toNat_setWidth, BitVec.toNat_ofNat]
  omega

/-- Settles O9: the fields are `headerInfo`'s, the checksums and the verdict `checkHeader_eq`'s. -/
theorem hdrParseFields : Obligations.HdrParseFields := by
  unfold Obligations.HdrParseFields
  intro h0 h1 h2 h3 h4 h5 h6 h7 h8 h9 s hb
  refine ⟨(parseHeader Config.params [h0, h1, h2, h3, h4, h5, h6, h7, h8, h9] (accept s)).2, ?_, rfl, rfl, rfl, rfl, rfl,
    capacityOf_toNat h1, be16_toNat h8 h9, ?_⟩
  · rw [exec_hdrParse_runs hb rfl, hdrParseBody]
    generalize (parseHeader Config.params [h0, h1, h2, h3, h4, h5, h6, h7, h8, h9] (accept s)).2 = info
    simp only [parseHeader, checkHeader_eq Config.params (show 8 ≤ [h0, h1, h2, h3, h4, h5, h6, h7, h8, h9].length by simp)]
    by_cases boot : h0.getLsbD 4 = Config.params.bootSense
    · simp only [List.getD_cons_zero, boot, if_true]; rfl
    · simp only [List.getD_cons_zero, boot, if_false]; rfl
  · simp only [parseHeader, headerInfo, bootMode, hdrByte, List.getD_cons_zero, beq_iff_eq,
      checkHeader_eq Config.params (show 8 ≤ [h0, h1, h2, h3, h4, h5, h6, h7, h8, h9].length by simp)]
    by_cases boot : h0.getLsbD 4 = Config.params.bootSense
    · simp only [boot, if_true]; exact ⟨trivial, trivial, rfl⟩
    · simp only [boot, if_false]; exact ⟨rfl, rfl, rfl⟩

/-! The identity patch (R155) -/

theorem identityCfg_fields {cfg : BitVec 40} (h : identityCfg cfg = true) :
    cfgPackType cfg = 0#2 ∧ cfgSetPaged cfg = false ∧ cfgSetWp cfg = false ∧ cfgSzOvrEn cfg = false ∧
      cfgRecompute cfg = false := by
  simpa [identityCfg, and_assoc] using h

theorem identityCfg_legal {cfg : BitVec 40} (h : identityCfg cfg = true) : cfgPackType cfg ≠ 3#2 := by
  rw [(identityCfg_fields h).1]; decide

/-- With no patch the header and CSA stay. -/
theorem patchHeader_identity {cfg : BitVec 40} (h : identityCfg cfg = true) {hdr : List Byte} (hl : 2 ≤ hdr.length)
    (s : State) : patchHeader hdr cfg s = (s, hdr) := by
  obtain ⟨packType, paged, wp, override, recompute⟩ := identityCfg_fields h
  rw [patchHeader_keep (by simp [recompute])]
  match hdr, hl with
  | b0 :: b1 :: rest, _ =>
    simp [patchedHead, patchId, patchPackType, patchPaged, patchWp, patchSizeCode, hdrByte, packType, paged, wp, override]

/-- Settles O12. -/
theorem hdrPatchIdentity : Obligations.HdrPatchIdentity := by
  unfold Obligations.HdrPatchIdentity
  intro h cfg s hb hl identity
  rw [exec_hdrPatch_runs hb hl (identityCfg_legal identity), hdrPatchBody, patchHeader_identity identity (by omega)]
  rfl

/-! FRAME_CLASSIFY (R170) -/

theorem exec_frameClassify_cons {b : Byte} {rest : List Byte} {s : State} (hb : s.busy = false) :
    exec (.frameClassify (b :: rest)) s =
      .next (answered s 0x00 (.classified (classifyBytes Config.params (b :: rest)))) := by
  have unfolded : exec (.frameClassify (b :: rest)) s =
    hostCommand true ((b :: rest).length != 0) true (frameClassifyBody Config.params (b :: rest)) s := rfl
  rw [unfolded, hostCommand_runs hb rfl (by simp) rfl]
  rfl

theorem classifyBytes_bad (p : Params) {b0 : Byte} (notEnd : b0 ≠ 0xFF#8) (rest : List Byte) :
    classifyBytes p (b0 :: 0xFF#8 :: rest) = .bad b0 0 2 := by
  simp only [classifyBytes, if_neg notEnd, classify_bad notEnd]

theorem classifyBytes_long_incomplete (p : Params) {b0 : Byte} (notEnd : b0 ≠ 0xFF#8) {rest : List Byte}
    (short : rest.length < 2) : classifyBytes p (b0 :: 0x80#8 :: rest) = .incomplete 4 := by
  match rest, short with
  | [], _ | [_], _ => simp only [classifyBytes, if_neg notEnd, classify_long notEnd]

theorem classifyBytes_long (p : Params) {b0 : Byte} (notEnd : b0 ≠ 0xFF#8) (x y : Byte) (rest : List Byte) :
    classifyBytes p (b0 :: 0x80#8 :: x :: y :: rest) = .long b0 (be16 x y).toNat ((be16 x y).toNat + 4) := by
  simp only [classifyBytes, if_neg notEnd, classify_long notEnd, frameSize]

theorem deletedFlag_eq (type : Byte) : deletedFlag type = decide (type.toNat < 0x80) := by
  rw [deletedFlag, BitVec.msb_eq_decide, ← decide_not]
  exact decide_eq_decide.2 (by simp)

/-- The declaration of a frame's first nine payload bytes, where they are there (R118). -/
theorem declOf_take (payload : List Byte) :
    declOf (payload.take 9) =
      if 9 ≤ payload.length then some { name := payload.take 8, id := payload.getD 8 0 } else none := by
  by_cases nine : 9 ≤ payload.length
  · simp [declOf, nine, List.take_take, List.getElem?_eq_getElem (show 8 < payload.length by omega)]
  · simp [declOf, nine]

theorem classifyBytes_short (p : Params) {b0 b1 : Byte} (notEnd : b0 ≠ 0xFF#8) (notBad : b1 ≠ 0xFF#8)
    (notLong : b1 ≠ 0x80#8) (rest : List Byte) :
    classifyBytes p (b0 :: b1 :: rest) =
      .short
        { len := b0.toNat
          type := b1
          t := typeCode b1
          deleted := deletedFlag b1
          kind := kindOf b1 b0.toNat
          size := b0.toNat + 2
          dfId := if kindOf b1 b0.toNat = .data then some (dfId p b1) else none
          decl := if kindOf b1 b0.toNat = .dfdecl then declOf (rest.take 9) else none } := by
  simp only [classifyBytes, if_neg notEnd, classify_short notEnd notBad notLong, frameSize]

/-- Settles O15: one clause for each branch of `classifyBytes`. -/
theorem frameClassifyAnswers : Obligations.FrameClassifyAnswers := by
  unfold Obligations.FrameClassifyAnswers
  intro b0 b1 x y rest s hb
  simp only [exec_frameClassify_cons hb]
  refine ⟨rfl, fun notEnd => ?_, fun notEnd => ?_, fun notEnd short => ?_, fun notEnd => ?_,
    fun notEnd notBad notLong => ?_⟩
  · simp only [classifyBytes, if_neg notEnd]
  · rw [classifyBytes_bad _ notEnd]
  · rw [classifyBytes_long_incomplete _ notEnd short]
  · rw [classifyBytes_long _ notEnd, be16_toNat]
  · rw [classifyBytes_short _ notEnd notBad notLong, deletedFlag_eq, declOf_take, ← ite_and]
    rfl

/-! FRAME_ENC (R134, R188) -/

theorem hi8_ofNat (n : Nat) : hi8 (BitVec.ofNat 16 n) = BitVec.ofNat 8 (n / 256) := by
  apply BitVec.eq_of_toNat_eq
  simp only [hi8, BitVec.extractLsb'_toNat, BitVec.toNat_ofNat, Nat.shiftRight_eq_div_pow]
  omega

theorem lo8_ofNat (n : Nat) : lo8 (BitVec.ofNat 16 n) = BitVec.ofNat 8 (n % 256) := by
  apply BitVec.eq_of_toNat_eq
  simp only [lo8, BitVec.extractLsb'_toNat, BitVec.toNat_ofNat, Nat.shiftRight_zero]
  omega

/-- Settles O16: the two length bytes of a LONG frame are the quotient and the remainder by 256. -/
theorem frameBytesForms : Obligations.FrameBytesForms := by
  unfold Obligations.FrameBytesForms
  refine ⟨rfl, fun lead => rfl, fun lead p => ?_, fun type p => rfl⟩
  rw [frameBytes, hi8_ofNat, lo8_ofNat]
  rfl

theorem exec_frameEnc {d : FrameDesc} {dst : Nat} {s : State} (hb : s.busy = false) :
    exec (.frameEnc d dst) s = frameEncBody d dst (accept s) := hostCommand_runs hb rfl rfl rfl

theorem appendSink_read (s : State) {dst r i : Nat} (bs : List Byte) (hw : Store.wf s.sinks = true)
    (old : r ≠ dst ∨ i < (sinkOf s dst).length) :
    Memory.read (sinkOf (appendSink dst bs s) r) i = Memory.read (sinkOf s r) i := by
  by_cases same : r = dst
  · subst same
    rw [show sinkOf (appendSink r bs s) r = Memory.appendAll (sinkOf s r) bs from store_get_set hw _]
    exact read_appendAll _ _ _ (by simpa using old)
  · rw [appendSink_other _ _ _ _ same]

/-- Settles O17: the frame's bytes are one `appendSink`; FRAME_INVALID is an abort of a codec command. -/
theorem frameEncEffect : Obligations.FrameEncEffect := by
  unfold Obligations.FrameEncEffect
  intro d dst s hb noOperation hw
  rw [exec_frameEnc hb, frameEncBody]
  constructor
  · intro out hd
    rw [hd]
    exact ⟨_, rfl, rfl, appendSink_bytes (accept s) dst out hw, fun r i => appendSink_read (accept s) out hw⟩
  · intro hd
    rw [hd]
    simp only [raiseAbort_other (show Status.frameInvalid ≠ .channelError by decide), accept_xstate, noOperation]
    rfl

end Sys2Proof.Machine

namespace Sys2Proof.Machine

/-! What stands before every frame (R180) -/

theorem atFrame_size {k : State → Answer} {s : State} (hw : s.wstate = .wRecords) (atSize : s.cur.toNat = s.size.toNat) :
    atFrame k s = .next (walkSizeMismatch s) := by
  rw [atFrame, if_neg (by simp [hw]), if_pos atSize]

theorem atFrame_runs {k : State → Answer} {s : State} (hw : s.wstate = .wRecords) (below : s.cur.toNat < s.size.toNat) :
    atFrame k s = k s := by
  rw [atFrame, if_neg (by simp [hw]), if_neg (by omega), if_neg (by omega)]

/-! A frame of each class that ends by SIZE, and one that does not (R180) -/

theorem frameFits_iff (n : Nat) (s : State) : frameFits n s = true ↔ s.cur.toNat + n ≤ s.size.toNat := decide_eq_true_iff

theorem walkBad_fits {s : State} (fits : s.cur.toNat + 2 ≤ s.size.toNat) (lead : Byte) :
    walkBad lead s =
      { s with recs := s.recs ++ [badEntry lead s], nBad := s.nBad + 1, cur := BitVec.ofNat 25 (s.cur.toNat + 2) } :=
  if_pos ((frameFits_iff 2 s).2 fits)

theorem walkBad_trunc {s : State} (cut : s.size.toNat < s.cur.toNat + 2) (lead : Byte) : walkBad lead s = walkTrunc s :=
  if_neg (by rw [frameFits_iff]; omega)

theorem walkLong_fits {s : State} {lead : Byte} {len : BitVec 16} {q : List Byte}
    (fits : s.cur.toNat + 4 + len.toNat ≤ s.size.toNat) (hq : imgBytes s (s.cur.toNat + 4) len.toNat = .ok q) :
    walkLong lead len s = .next (appendLong lead len q s) := by
  rw [walkLong, if_pos ((frameFits_iff _ s).2 (by omega)), hq]
  rfl

theorem walkLong_trunc {s : State} {len : BitVec 16} (cut : s.size.toNat < s.cur.toNat + 4 + len.toNat) (lead : Byte) :
    walkLong lead len s = .next (walkTrunc s) :=
  if_neg (by rw [frameFits_iff]; omega)

theorem walkShort_fits {p : Params} {k : Kind} {s : State} {len type : Byte} {q : List Byte}
    (fits : s.cur.toNat + 2 + len.toNat ≤ s.size.toNat) (hq : imgBytes s (s.cur.toNat + 2) len.toNat = .ok q) :
    walkShort p k len type s = .next (appendShort p k len type q s) := by
  rw [walkShort, if_pos ((frameFits_iff _ s).2 (by omega)), hq]
  rfl

theorem walkShort_trunc {s : State} {len : Byte} (cut : s.size.toNat < s.cur.toNat + 2 + len.toNat) (p : Params)
    (k : Kind) (type : Byte) : walkShort p k len type s = .next (walkTrunc s) :=
  if_neg (by rw [frameFits_iff]; omega)

/-! The SHORT entry and its effect, by kind (R184) -/

/-- The fields that every SHORT entry has in common; the other three are the kind's own. -/
theorem shortEntryOf_frame (p : Params) (k : Kind) (len type : Byte) (q : List Byte) (s : State) :
    shortEntryOf p k len type q s =
      { shortEntry k len type q s with
        decl := (shortEntryOf p k len type q s).decl
        dfId := (shortEntryOf p k len type q s).dfId
        owner := (shortEntryOf p k len type q s).owner } := by
  cases k <;> rfl

theorem shortEffect_reg {k : Kind} (notDecl : k ≠ .dfdecl) (p : Params) (type : Byte) (q : List Byte) (s : State) :
    (shortEffect p k type q s).reg = s.reg := by
  cases k with
  | dfdecl => exact absurd rfl notDecl
  | data => simp only [shortEffect, noteOwner]; split <;> rfl
  | diary | opl | comms | sheet | pager | notes | unknown => rfl

theorem shortEffect_diag {k : Kind} (notData : k ≠ .data) (p : Params) (type : Byte) (q : List Byte) (s : State) :
    (shortEffect p k type q s).diag = s.diag := by
  cases k with
  | dfdecl =>
    simp only [shortEffect]
    split
    · split <;> rfl
    · rfl
  | data => exact absurd rfl notData
  | diary | opl | comms | sheet | pager | notes | unknown => rfl

/-- A SHORT frame of a kind that neither declares nor owns appends its entry and nothing else. -/
theorem appendShort_plain {k : Kind} (notDecl : k ≠ .dfdecl) (notData : k ≠ .data) (p : Params) (len type : Byte)
    (q : List Byte) (s : State) :
    appendShort p k len type q s =
      { s with
        recs := s.recs ++ [shortEntry k len type q s]
        nShort := s.nShort + 1
        cur := BitVec.ofNat 25 (s.cur.toNat + 2 + len.toNat) } := by
  cases k with
  | dfdecl => exact absurd rfl notDecl
  | data => exact absurd rfl notData
  | diary | opl | comms | sheet | pager | notes | unknown => rfl

/-! WALK_STEP by the bytes at CUR (R180) -/

/-- Image bytes are read below SIZE only (R64). -/
theorem imgByte_lt {s : State} {a : Nat} {b : Byte} (h : imgByte s a = .ok b) : a < s.size.toNat := by
  unfold imgByte at h
  split at h
  · assumption
  · cases h

theorem imgBytes_le {s : State} {a n : Nat} {q : List Byte} (h : imgBytes s a n = .ok q) (ha : a ≤ s.size.toNat) :
    a + n ≤ s.size.toNat := by
  induction n generalizing a q with
  | zero => omega
  | succ n ih =>
    unfold imgBytes at h
    split at h
    · cases h
    · next first =>
      split at h
      · cases h
      · next later =>
        have := ih later (imgByte_lt first)
        omega

theorem exec_endFrame {s : State} (hw : s.wstate = .wRecords) (below : s.cur.toNat < s.size.toNat) :
    exec .endFrame s = .next (walkEnd s) := atFrame_runs (k := fun t => .next (walkEnd t)) hw below

theorem exec_badFrame {s : State} (hw : s.wstate = .wRecords) (below : s.cur.toNat < s.size.toNat) (lead : Byte) :
    exec (.badFrame lead) s = .next (walkBad lead s) := atFrame_runs (k := fun t => .next (walkBad lead t)) hw below

theorem exec_longFrame {s : State} (hw : s.wstate = .wRecords) (below : s.cur.toNat < s.size.toNat) (lead : Byte)
    (len : BitVec 16) : exec (.longFrame lead len) s = walkLong lead len s := atFrame_runs hw below

theorem exec_walkStep {s : State} (hw : s.wstate = .wRecords) (below : s.cur.toNat < s.size.toNat) :
    exec .walkStep s = walkFrame Config.params s := atFrame_runs hw below

theorem exec_shortFrame {s : State} (hw : s.wstate = .wRecords) (below : s.cur.toNat < s.size.toNat) (len type : Byte) :
    exec (.shortFrame len type) s = walkShort Config.params (kindOf type len.toNat) len type s := atFrame_runs hw below

theorem walkFrame_end {p : Params} {s : State} (h0 : imgByte s s.cur.toNat = .ok 0xFF#8) :
    walkFrame p s = .next (walkEnd s) := by
  rw [walkFrame, h0]; rfl

section
variable {p : Params} {s : State} {b0 b1 : Byte}

theorem walkFrame_trunc (h0 : imgByte s s.cur.toNat = .ok b0) (notEnd : b0 ≠ 0xFF#8)
    (cut : s.size.toNat < s.cur.toNat + 2) : walkFrame p s = .next (walkTrunc s) := by
  have noPair : ¬ frameFits 2 s = true := by rw [frameFits_iff]; omega
  simp only [walkFrame, h0, orFault, if_neg notEnd, if_neg noPair]

theorem walkFrame_bad (h0 : imgByte s s.cur.toNat = .ok b0) (notEnd : b0 ≠ 0xFF#8)
    (h1 : imgByte s (s.cur.toNat + 1) = .ok 0xFF#8) : walkFrame p s = .next (walkBad b0 s) := by
  have pair : frameFits 2 s = true := (frameFits_iff 2 s).2 (imgByte_lt h1)
  simp only [walkFrame, h0, h1, orFault, if_neg notEnd, if_pos pair, classify_bad notEnd]

theorem walkFrame_long_trunc (h0 : imgByte s s.cur.toNat = .ok b0) (notEnd : b0 ≠ 0xFF#8)
    (h1 : imgByte s (s.cur.toNat + 1) = .ok 0x80#8) (cut : s.size.toNat < s.cur.toNat + 4) :
    walkFrame p s = .next (walkTrunc s) := by
  have pair : frameFits 2 s = true := (frameFits_iff 2 s).2 (imgByte_lt h1)
  have noHead : ¬ frameFits 4 s = true := by rw [frameFits_iff]; omega
  simp only [walkFrame, h0, h1, orFault, if_neg notEnd, if_pos pair, classify_long notEnd, if_neg noHead]

theorem walkFrame_long {x y : Byte} (h0 : imgByte s s.cur.toNat = .ok b0) (notEnd : b0 ≠ 0xFF#8)
    (h1 : imgByte s (s.cur.toNat + 1) = .ok 0x80#8) (hx : imgByte s (s.cur.toNat + 2) = .ok x)
    (hy : imgByte s (s.cur.toNat + 3) = .ok y) : walkFrame p s = walkLong b0 (be16 x y) s := by
  have pair : frameFits 2 s = true := (frameFits_iff 2 s).2 (imgByte_lt h1)
  have head : frameFits 4 s = true := (frameFits_iff 4 s).2 (imgByte_lt hy)
  simp only [walkFrame, h0, h1, orFault, if_neg notEnd, if_pos pair, classify_long notEnd, if_pos head, hx, hy]

theorem walkFrame_short (h0 : imgByte s s.cur.toNat = .ok b0) (notEnd : b0 ≠ 0xFF#8)
    (h1 : imgByte s (s.cur.toNat + 1) = .ok b1) (notBad : b1 ≠ 0xFF#8) (notLong : b1 ≠ 0x80#8) :
    walkFrame p s = walkShort p (kindOf b1 b0.toNat) b0 b1 s := by
  have pair : frameFits 2 s = true := (frameFits_iff 2 s).2 (imgByte_lt h1)
  simp only [walkFrame, h0, h1, orFault, if_neg notEnd, if_pos pair, classify_short notEnd notBad notLong]

end

/-- Settles O19: one of the equations above for each row of R180. -/
theorem walkStepEffect : Obligations.WalkStepEffect := by
  unfold Obligations.WalkStepEffect
  intro s hw
  refine ⟨atFrame_size hw, fun h0 => ?_, fun b0 h0 notEnd => ⟨fun cut => ?_, fun b1 h1 => ⟨?_, ?_, ?_⟩⟩⟩
  · rw [exec_walkStep hw (imgByte_lt h0), walkFrame_end h0]
    rfl
  · rw [exec_walkStep hw (imgByte_lt h0), walkFrame_trunc h0 notEnd cut]
    rfl
  · rintro rfl
    rw [exec_walkStep hw (imgByte_lt h0), walkFrame_bad h0 notEnd h1, walkBad_fits (imgByte_lt h1)]
    rfl
  · rintro rfl
    rw [exec_walkStep hw (imgByte_lt h0)]
    refine ⟨fun cut => ?_, fun x y hx hy => ?_⟩
    · rw [walkFrame_long_trunc h0 notEnd h1 cut]
      rfl
    · rw [walkFrame_long h0 notEnd h1 hx hy, ← be16_toNat]
      refine ⟨fun cut => ?_, fun q hq => ?_⟩
      · rw [walkLong_trunc cut]
        rfl
      · by_cases fits : s.cur.toNat + 4 + (be16 x y).toNat ≤ s.size.toNat
        · rw [walkLong_fits fits hq]
          rfl
        · exact absurd (imgBytes_le hq (imgByte_lt hy)) fits
  · intro notBad notLong
    rw [exec_walkStep hw (imgByte_lt h0), exec_shortFrame hw (imgByte_lt h0), walkFrame_short h0 notEnd h1 notBad notLong]

/-- Settles O20: `atFrame` lets the frame run, and each class has its two equations. -/
theorem frameClassEffect : Obligations.FrameClassEffect := by
  unfold Obligations.FrameClassEffect
  intro s hw below
  refine ⟨exec_endFrame hw below, fun lead fits => ?_, fun lead cut => ?_, fun lead len q hq fits => ?_,
    fun lead len cut => ?_⟩
  · rw [exec_badFrame hw below, walkBad_fits fits]
    rfl
  · rw [exec_badFrame hw below, walkBad_trunc cut]
    rfl
  · rw [exec_longFrame hw below, walkLong_fits fits hq]
    rfl
  · rw [exec_longFrame hw below, walkLong_trunc cut]
    rfl

/-- Settles O25: the entry is `shortEntryOf`, the rest of the effect `shortEffect`'s. -/
theorem shortFrameAppends : Obligations.ShortFrameAppends := by
  unfold Obligations.ShortFrameAppends
  intro len type s hw below
  rw [exec_shortFrame hw below]
  constructor
  · intro q fits hq
    refine ⟨shortEntryOf Config.params (kindOf type len.toNat) len type q s, _, walkShort_fits fits hq, ?_, ?_⟩
    · rw [appendShort, shortEffect_frame]
    · rw [shortEntryOf_frame]
      exact ⟨rfl, rfl, rfl, rfl, BitVec.toNat_setWidth_of_le (by decide), rfl, by rw [← deletedFlag_eq]; rfl, rfl,
        fun notDecl => shortEffect_reg notDecl _ _ _ _, fun notData => shortEffect_diag notData _ _ _ _⟩
  · intro cut
    rw [walkShort_trunc cut]
    rfl

/-! The rows of the kind table as SHORT frames (R117, R125) -/

/-- Bit 7 of a type code is set, so the type byte of a live frame is the type code itself. -/
theorem typeByte_eq {t : Byte} (code : 0x80 ≤ t.toNat) (live : Bool) :
    typeByte t live = if live then t else t &&& 0x7F#8 := by
  have bit7 : ∀ x : Byte, 0x80 ≤ x.toNat → x ||| 0x80#8 = x := by decide
  rw [typeByte, bit7 t code]

/-- The type code of a row's type byte is the row's own, live or deleted. -/
theorem typeCode_typeByte {t : Byte} (code : 0x80 ≤ t.toNat) (live : Bool) : typeCode (typeByte t live) = t := by
  have bit7 : ∀ x : Byte, 0x80 ≤ x.toNat → x ||| 0x80#8 = x ∧ (x &&& 0x7F#8) ||| 0x80#8 = x := by decide
  obtain ⟨set, restore⟩ := bit7 t code
  cases live
  · exact restore
  · simp only [typeCode, typeByte, if_true, set]

theorem deletedFlag_typeByte (t : Byte) (live : Bool) : deletedFlag (typeByte t live) = !live := by
  have masks : (0x80#8).msb = true ∧ (0x7F#8).msb = false := by decide
  cases live <;> simp [deletedFlag, typeByte, BitVec.msb_or, BitVec.msb_and, masks]

/-- A row of R125 is the SHORT frame of its type byte: the frame's kind is the row's. -/
theorem kindRow_eq_shortFrame {k : Kind} {t len : Byte} (code : 0x80 ≤ t.toNat) (row : kindOfCode t len.toNat = k)
    (live : Bool) (s : State) :
    kindRow k t live len s = exec (.shortFrame len (if live then t else t &&& 0x7F#8)) s := by
  have kind : kindOf (typeByte t live) len.toNat = k := by rw [kindOf, typeCode_typeByte code, row]
  rw [← typeByte_eq code, kindRow, ← kind]
  rfl

theorem kindOfCode_data {t : Byte} (low : 0x90 ≤ t.toNat) (notFF : t.toNat ≠ 0xFF) (len : Nat) :
    kindOfCode t len = .data := by
  have notDecl : t ≠ 0x81#8 := fun e => by rw [e] at low; exact absurd low (by decide)
  have := t.isLt
  rw [kindOfCode_of_ne_declaration notDecl, if_neg (by omega), if_neg (by omega), if_neg (by omega), if_neg (by omega),
    if_neg (by omega), if_neg (by omega), if_pos (by omega)]

theorem kindOfCode_unknown {t : Byte} (low : 0x87 < t.toNat) (high : t.toNat < 0x90) (len : Nat) :
    kindOfCode t len = .unknown := by
  have notDecl : t ≠ 0x81#8 := fun e => by rw [e] at low; exact absurd low (by decide)
  rw [kindOfCode_of_ne_declaration notDecl, if_neg (by omega), if_neg (by omega), if_neg (by omega), if_neg (by omega),
    if_neg (by omega), if_neg (by omega), if_neg (by omega)]

/-- The type codes of the ranged rows of R125, from their fixed high bits and low field. -/
theorem unknown88_code (low : BitVec 3) :
    0x11#5 ++ low = 0x88#8 + low.zeroExtend 8 ∧ 0x87 < (0x11#5 ++ low).toNat ∧ (0x11#5 ++ low).toNat < 0x90 := by
  decide +revert

theorem data90_code (low : BitVec 4) :
    0x9#4 ++ low = 0x90#8 + low.zeroExtend 8 ∧ 0x90 ≤ (0x9#4 ++ low).toNat ∧ (0x9#4 ++ low).toNat ≠ 0xFF := by
  decide +revert

theorem dataA0_code (low : BitVec 5) :
    0x5#3 ++ low = 0xA0#8 + low.zeroExtend 8 ∧ 0x90 ≤ (0x5#3 ++ low).toNat ∧ (0x5#3 ++ low).toNat ≠ 0xFF := by
  decide +revert

theorem dataC0_code (low : BitVec 5) :
    0x6#3 ++ low = 0xC0#8 + low.zeroExtend 8 ∧ 0x90 ≤ (0x6#3 ++ low).toNat ∧ (0x6#3 ++ low).toNat ≠ 0xFF := by
  decide +revert

theorem dataE0_code (low : BitVec 5) :
    0x7#3 ++ low = 0xE0#8 + low.zeroExtend 8 ∧ 0x90 ≤ (0x7#3 ++ low).toNat ∧
      (low ≠ 0x1F#5 → (0x7#3 ++ low).toNat ≠ 0xFF) := by
  decide +revert

/-- Settles O24: `kindRow_eq_shortFrame` with the kind of each row's type code. -/
theorem kindRowsAreShortFrames : Obligations.KindRowsAreShortFrames := by
  unfold Obligations.KindRowsAreShortFrames
  intro i t len live s wf code
  cases i
  case kindUnknownFF len =>
    obtain ⟨rfl, rfl, rfl⟩ := Code.kind.inj code
    show kindRow .unknown 0xFF false len s = _
    exact kindRow_eq_shortFrame (t := 0xFF#8) (by decide) rfl false s
  case kindDfdecl live len =>
    obtain ⟨rfl, rfl, rfl⟩ := Code.kind.inj code
    show kindRow .dfdecl 0x81 live len s = _
    simp only [wellFormed, Bool.and_eq_true, decide_eq_true_eq] at wf
    exact kindRow_eq_shortFrame (t := 0x81#8) (by decide) (by rw [kindOfCode_declaration, if_pos wf.2]) live s
  case kindUnknownShortdecl live len =>
    obtain ⟨rfl, rfl, rfl⟩ := Code.kind.inj code
    show kindRow .unknown 0x81 live len s = _
    have less : len.toNat < 9 := by simpa [wellFormed] using wf
    exact kindRow_eq_shortFrame (t := 0x81#8) (by decide) (by rw [kindOfCode_declaration, if_neg (by omega)]) live s
  case kindDiary live len =>
    obtain ⟨rfl, rfl, rfl⟩ := Code.kind.inj code
    show kindRow .diary 0x82 live len s = _
    exact kindRow_eq_shortFrame (t := 0x82#8) (by decide) rfl live s
  case kindOpl live len =>
    obtain ⟨rfl, rfl, rfl⟩ := Code.kind.inj code
    show kindRow .opl 0x83 live len s = _
    exact kindRow_eq_shortFrame (t := 0x83#8) (by decide) rfl live s
  case kindComms live len =>
    obtain ⟨rfl, rfl, rfl⟩ := Code.kind.inj code
    show kindRow .comms 0x84 live len s = _
    exact kindRow_eq_shortFrame (t := 0x84#8) (by decide) rfl live s
  case kindSheet live len =>
    obtain ⟨rfl, rfl, rfl⟩ := Code.kind.inj code
    show kindRow .sheet 0x85 live len s = _
    exact kindRow_eq_shortFrame (t := 0x85#8) (by decide) rfl live s
  case kindPager live len =>
    obtain ⟨rfl, rfl, rfl⟩ := Code.kind.inj code
    show kindRow .pager 0x86 live len s = _
    exact kindRow_eq_shortFrame (t := 0x86#8) (by decide) rfl live s
  case kindNotes live len =>
    obtain ⟨rfl, rfl, rfl⟩ := Code.kind.inj code
    show kindRow .notes 0x87 live len s = _
    exact kindRow_eq_shortFrame (t := 0x87#8) (by decide) rfl live s
  case kindUnknown80 len =>
    obtain ⟨rfl, rfl, rfl⟩ := Code.kind.inj code
    show kindRow .unknown 0x80 false len s = _
    exact kindRow_eq_shortFrame (t := 0x80#8) (by decide) rfl false s
  case kindUnknown88 live low len =>
    obtain ⟨rfl, rfl, rfl⟩ := Code.kind.inj code
    show kindRow .unknown (0x11#5 ++ low) live len s = _
    obtain ⟨-, above, below⟩ := unknown88_code low
    exact kindRow_eq_shortFrame (by omega) (kindOfCode_unknown above below _) live s
  case kindData90 live low len =>
    obtain ⟨rfl, rfl, rfl⟩ := Code.kind.inj code
    show kindRow .data (0x9#4 ++ low) live len s = _
    obtain ⟨-, above, notFF⟩ := data90_code low
    exact kindRow_eq_shortFrame (by omega) (kindOfCode_data above notFF _) live s
  case kindDataA0 live low len =>
    obtain ⟨rfl, rfl, rfl⟩ := Code.kind.inj code
    show kindRow .data (0x5#3 ++ low) live len s = _
    obtain ⟨-, above, notFF⟩ := dataA0_code low
    exact kindRow_eq_shortFrame (by omega) (kindOfCode_data above notFF _) live s
  case kindDataC0 live low len =>
    obtain ⟨rfl, rfl, rfl⟩ := Code.kind.inj code
    show kindRow .data (0x6#3 ++ low) live len s = _
    obtain ⟨-, above, notFF⟩ := dataC0_code low
    exact kindRow_eq_shortFrame (by omega) (kindOfCode_data above notFF _) live s
  case kindDataE0 live low len =>
    obtain ⟨rfl, rfl, rfl⟩ := Code.kind.inj code
    show kindRow .data (0x7#3 ++ low) live len s = _
    obtain ⟨-, above, notFF⟩ := dataE0_code low
    simp only [wellFormed, Bool.and_eq_true, bne_iff_ne] at wf
    exact kindRow_eq_shortFrame (by omega) (kindOfCode_data above (notFF wf.2) _) live s
  all_goals cases code

theorem kindRow_fits {k : Kind} {t len : Byte} {q : List Byte} {s : State} (hw : s.wstate = .wRecords)
    (fits : s.cur.toNat + 2 + len.toNat ≤ s.size.toNat) (hq : imgBytes s (s.cur.toNat + 2) len.toNat = .ok q)
    (live : Bool) : kindRow k t live len s = .next (appendShort Config.params k len (typeByte t live) q s) := by
  rw [kindRow, atFrame_runs hw (by omega), walkShort_fits fits hq]

/-- A row that neither declares nor owns. -/
theorem kindRow_plain {k : Kind} {t len : Byte} {q : List Byte} {s : State} (notDecl : k ≠ .dfdecl) (notData : k ≠ .data)
    (code : 0x80 ≤ t.toNat) (hw : s.wstate = .wRecords) (fits : s.cur.toNat + 2 + len.toNat ≤ s.size.toNat)
    (hq : imgBytes s (s.cur.toNat + 2) len.toNat = .ok q) (live : Bool) :
    kindRow k t live len s = .next
      { s with
        recs := s.recs ++
          [{ cls := .short, addr := s.cur, b0 := len, b1 := if live then t else t &&& 0x7F#8, len := len.zeroExtend 16,
             payload := q, deleted := some (!live), kind := some k, decl := none, dfId := none, owner := none }]
        nShort := s.nShort + 1
        cur := BitVec.ofNat 25 (s.cur.toNat + 2 + len.toNat) } := by
  rw [kindRow_fits hw fits hq, appendShort_plain notDecl notData, shortEntry, deletedFlag_typeByte, typeByte_eq code]

/-- Settles O21: each of the ten rows is a `kindRow` of a plain kind. -/
theorem plainKindRows : Obligations.PlainKindRows := by
  unfold Obligations.PlainKindRows
  intro i k t len live q s row hw fits hq
  obtain ⟨low, row⟩ := row
  simp only [Prod.mk.injEq] at row
  rcases row with ⟨rfl, rfl, rfl⟩ | ⟨rfl, rfl, rfl⟩ | ⟨rfl, rfl, rfl⟩ | ⟨rfl, rfl, rfl⟩ | ⟨rfl, rfl, rfl⟩ |
    ⟨rfl, rfl, rfl⟩ | ⟨rfl, rfl, rfl⟩ | ⟨rfl, rfl, rfl⟩ | ⟨rfl, rfl, rfl, rfl⟩ | ⟨rfl, rfl, rfl, rfl⟩
  case inr.inr.inr.inr.inr.inr.inr.inl =>
    obtain ⟨code, above, -⟩ := unknown88_code low
    rw [← code]
    exact kindRow_plain (by decide) (by decide) (by omega) hw fits hq live
  all_goals exact kindRow_plain (by decide) (by decide) (by decide) hw fits hq _

/-! The registry (R185, R186) -/

/-- The lookup from the end of REG finds the last entry with the id. -/
theorem registryLookup_eq_getLast (reg : List RegEntry) (id : Byte) :
    registryLookup reg id = (reg.filter (fun e => e.id == id)).getLast? := List.getLast?_filter.symm

theorem registryLookup_isSome (reg : List RegEntry) (id : Byte) :
    (registryLookup reg id).isSome = reg.any (fun e => e.id == id) := by
  rw [registryLookup, List.isSome_find?, List.any_reverse]

/-- Settles O26: in REG reversed the entry comes before those it was appended to. -/
theorem registryLastWins : Obligations.RegistryLastWins := by
  unfold Obligations.RegistryLastWins
  intro before after e id
  constructor
  · intro noneAfter
    have notFound : after.reverse.find? (fun x => x.id == e.id) = none := by simpa using noneAfter
    simp [ownerOf, registryLookup, List.find?_append, notFound]
  · intro noneBefore
    have notFound : before.reverse.find? (fun x => x.id == id) = none := by simpa using noneBefore
    simp [ownerOf, registryLookup, notFound]

/-- DF_ID_OF looks at the type code only (R174). -/
theorem dfId_typeByte (p : Params) {t : Byte} (code : 0x80 ≤ t.toNat) (live : Bool) :
    dfId p (typeByte t live) = dfId p t := by
  have self : typeCode t = t := by
    have := typeCode_typeByte code true
    rwa [typeByte_eq code, if_pos rfl] at this
  simp only [dfId, typeCode_typeByte code, self]

/-- A data record: its owner is looked up and a failed lookup noted. -/
theorem kindRow_data {t len : Byte} {q : List Byte} {s : State} (code : 0x80 ≤ t.toNat) (hw : s.wstate = .wRecords)
    (fits : s.cur.toNat + 2 + len.toNat ≤ s.size.toNat) (hq : imgBytes s (s.cur.toNat + 2) len.toNat = .ok q)
    (live : Bool) :
    kindRow .data t live len s = .next
      { s with
        diag := if s.reg.any (fun e => e.id == dfId Config.params t) then s.diag else s.diag ||| 0x08#8
        recs := s.recs ++
          [{ cls := .short, addr := s.cur, b0 := len, b1 := if live then t else t &&& 0x7F#8, len := len.zeroExtend 16,
             payload := q, deleted := some (!live), kind := some .data, decl := none,
             dfId := some (dfId Config.params t),
             owner := some (match (s.reg.filter (fun e => e.id == dfId Config.params t)).getLast? with
               | some e => .found { name := e.name, id := e.id }
               | none => .notFound) }]
        nShort := s.nShort + 1
        cur := BitVec.ofNat 25 (s.cur.toNat + 2 + len.toNat) } := by
  rw [kindRow_fits hw fits hq, appendShort, shortEntryOf, shortEffect, shortEntry, deletedFlag_typeByte,
    dfId_typeByte _ code, typeByte_eq code, ← registryLookup_isSome, ← registryLookup_eq_getLast, ownerOf]
  cases registryLookup s.reg (dfId Config.params t) <;> rfl

/-- Settles O23: the four ranges of R125 are rows of kind DATA. -/
theorem dataRecordsResolve : Obligations.DataRecordsResolve := by
  unfold Obligations.DataRecordsResolve
  intro i t len live q s row hw fits hq
  obtain ⟨low4, low5, row⟩ := row
  simp only [Prod.mk.injEq] at row
  rcases row with ⟨rfl, rfl⟩ | ⟨rfl, rfl⟩ | ⟨rfl, rfl⟩ | ⟨rfl, rfl⟩
  · obtain ⟨code, above, -⟩ := data90_code low4
    rw [← code]
    exact kindRow_data (by omega) hw fits hq live
  · obtain ⟨code, above, -⟩ := dataA0_code low5
    rw [← code]
    exact kindRow_data (by omega) hw fits hq live
  · obtain ⟨code, above, -⟩ := dataC0_code low5
    rw [← code]
    exact kindRow_data (by omega) hw fits hq live
  · obtain ⟨code, above, -⟩ := dataE0_code low5
    rw [← code]
    exact kindRow_data (by omega) hw fits hq live

theorem declOf_long {payload : List Byte} (nine : 9 ≤ payload.length) :
    declOf payload = some { name := payload.take 8, id := payload.getD 8 0 } := if_neg (by omega)

/-- Settles O22: nine payload bytes are a declaration, registered unless it is deleted and REGISTER_DELETED is false. -/
theorem declarationRegisters : Obligations.DeclarationRegisters := by
  unfold Obligations.DeclarationRegisters
  intro live len q s nine hw fits hq
  have run : exec (.kindDfdecl live len) s = kindRow .dfdecl 0x81 live len s := rfl
  have decl := declOf_long (show 9 ≤ q.length by rw [imgBytes_length hq]; exact nine)
  have type : typeByte 0x81 live = if live then 0x81#8 else 0x01#8 := by cases live <;> rfl
  rw [run, kindRow_fits hw fits hq, appendShort, shortEntryOf, shortEffect, shortEntry, deletedFlag_typeByte, decl, type]
  cases live <;> cases registered : Config.params.registerDeleted <;> simp

end Sys2Proof.Machine

namespace Sys2Proof.Machine

/-! Steps with no other agent scheduled, and the turns of a DECODE that runs (R197 to R200) -/

theorem step_of_no_sched {s : State} (hs : s.sched = []) : step s = engineTurn s := by
  rw [step, turn, hs]

theorem engineTurn_transfer {s : State} (op : s.xstate.inOperation = true) :
    engineTurn s = transferStep Config.params s := by
  rw [engineTurn, nextAction, if_pos op]

theorem nextAction_decode {s : State} (noOp : s.xstate.inOperation = false) (hb : s.busy = true) {a : Action}
    (ha : nextDecode s = a) : nextAction s = a := by
  rw [nextAction, if_neg (by simp [noOp]), if_pos hb, ha]

theorem engineTurn_header {s : State} (noOp : s.xstate.inOperation = false) (hb : s.busy = true)
    (hw : s.wstate = .wHeader) : engineTurn s = decodeHeader Config.params s := by
  rw [engineTurn, nextAction_decode noOp hb (by rw [nextDecode, hw])]

theorem engineTurn_walk {s : State} (noOp : s.xstate.inOperation = false) (hb : s.busy = true)
    (hw : s.wstate = .wRecords) : engineTurn s = exec .walkStep s := by
  rw [engineTurn, nextAction_decode noOp hb (by rw [nextDecode, hw])]

theorem engineTurn_result {s : State} (noOp : s.xstate.inOperation = false) (hb : s.busy = true)
    (terminal : s.wstate = .wEnd ∨ s.wstate = .wSize ∨ s.wstate = .wTrunc) :
    engineTurn s = decodeResult Config.params s := by
  have next : nextDecode s = .result := by
    rw [nextDecode]
    rcases terminal with hw | hw | hw <;> rw [hw]
  rw [engineTurn, nextAction_decode noOp hb next]

/-! Acceptance (R197) -/

theorem exec_decode {src : List Byte} {s : State} (hb : s.busy = false) :
    exec (.decode src) s = decodeBody src (accept s) := hostCommand_runs hb rfl rfl rfl

/-- A codec command that aborts where no operation runs leaves XSTATE and answers with the code alone (R270). -/
theorem raiseAbort_codec {c : Status} (notChannel : c ≠ .channelError) {s : State} (noOp : s.xstate.inOperation = false)
    (hd : s.diag = 0) : raiseAbort c s = { answered s (statusCode c) .none with timer := false } := by
  rw [raiseAbort_other notChannel, noOp]
  simp only [answered, hd]
  rfl

/-- Settles O27: the checks of `decodeBody` in their order, each failed one an abort of a codec command. -/
theorem decodeAcceptance : Obligations.DecodeAcceptance := by
  unfold Obligations.DecodeAcceptance
  intro src s hb noOp
  refine ⟨_, rfl, ?_⟩
  have idle : (decodeInit src (accept s)).xstate.inOperation = false := noOp
  have abort {c : Status} (hc : c ≠ .channelError) := raiseAbort_codec hc idle rfl
  rw [exec_decode hb, decodeBody]
  by_cases noMagic : src.take 3 ≠ magic
  · rw [if_pos noMagic, abort (by decide)]
    exact congrArg Host.Outcome.next (if_pos noMagic).symm
  · rw [if_neg noMagic]
    refine Eq.trans ?_ (congrArg Host.Outcome.next (if_neg noMagic).symm)
    by_cases noSize : src.length < 6
    · rw [if_pos noSize, if_pos noSize, abort (by decide)]
      rfl
    · rw [if_neg noSize, if_neg noSize]
      by_cases noImage : src.length - 6 < (containerSize src).toNat ∨ (containerSize src).toNat < 10
      · rw [if_pos noImage,
          raiseAbort_codec (s := { decodeInit src (accept s) with size := containerSize src }) (by decide) noOp rfl]
        exact congrArg Host.Outcome.next (if_pos noImage).symm
      · rw [if_neg noImage]
        exact congrArg Host.Outcome.next (if_neg noImage).symm

/-- What DECODE of an acceptable container leaves as it is accepted. -/
def accepted (src : List Byte) (s : State) : State :=
  { decodeInit src (accept s) with size := containerSize src, wstate := .wHeader }

theorem acceptable_iff (src : List Byte) :
    acceptable src = true ↔ src.take 3 = magic ∧ 6 ≤ src.length ∧ 10 ≤ (containerSize src).toNat ∧
      6 + (containerSize src).toNat ≤ src.length := by
  simp [acceptable, magic, and_assoc]

theorem exec_decode_acceptable {src : List Byte} {s : State} (hb : s.busy = false) (ok : acceptable src = true) :
    exec (.decode src) s = .next (accepted src s) := by
  obtain ⟨hm, six, ten, fits⟩ := (acceptable_iff src).1 ok
  rw [exec_decode hb, decodeBody, if_neg (by simp [hm]), if_neg (by omega), if_neg (by omega)]
  rfl

/-- An aborted command is at its end and answers no result data. -/
theorem raiseAbort_ends {c : Status} (s : State) :
    (raiseAbort c s).busy = false ∧ (raiseAbort c s).hrsp.result = .none := by
  unfold raiseAbort
  split <;> exact ⟨rfl, rfl⟩

/-- DECODE of any other container is an abort at its acceptance: SRC and perhaps SIZE are latched, the walk's registers
cleared. -/
theorem exec_decode_rejects {src : List Byte} {s : State} (idle : s.busy = false) (bad : ¬ acceptable src = true) :
    ∃ c size, statusWritable c = true ∧ c ≠ .channelError ∧
      exec (.decode src) s = .next (raiseAbort c { decodeInit src (accept s) with size := size }) := by
  rw [exec_decode idle, decodeBody]
  split
  · exact ⟨.badMagic, s.size, rfl, by decide, rfl⟩
  next hm =>
  split
  · exact ⟨.truncated, s.size, rfl, by decide, rfl⟩
  next six =>
  split
  · exact ⟨.truncated, _, rfl, by decide, rfl⟩
  next fits => exact absurd ((acceptable_iff src).2 ⟨by simpa using hm, by omega, by omega, by omega⟩) bad

theorem exec_decode_rejected {src : List Byte} {s : State} (hb : s.busy = false) (bad : ¬ acceptable src = true) :
    ∃ c u, exec (.decode src) s = .next (raiseAbort c u) := by
  obtain ⟨c, size, -, -, h⟩ := exec_decode_rejects hb bad
  exact ⟨c, _, h⟩

/-! A DECODE that runs -/

/-- A DECODE runs over an accepted container, and no other agent moves. -/
structure Decoding (s : State) : Prop where
  sched : s.sched = []
  busy : s.busy = true
  noOp : s.xstate.inOperation = false
  srcWf : Memory.wf s.src = true
  sizeMin : 10 ≤ s.size.toNat
  fits : 6 + s.size.toNat ≤ s.src.length

theorem ready_iff (s : State) : ready s = true ↔ s.busy = false ∧ s.xstate.inOperation = false ∧ s.sched = [] := by
  simp [ready, and_assoc]

theorem accepted_decoding {src : List Byte} {s : State} (hr : ready s = true) (ok : acceptable src = true) :
    Decoding (accepted src s) := by
  obtain ⟨-, noOp, hs⟩ := (ready_iff s).1 hr
  obtain ⟨-, -, ten, fits⟩ := (acceptable_iff src).1 ok
  exact ⟨hs, rfl, noOp, ofBytes_wf src, ten, by simpa [accepted] using fits⟩

theorem Decoding.step_header {s : State} (d : Decoding s) (hw : s.wstate = .wHeader) :
    step s = decodeHeader Config.params s := by
  rw [step_of_no_sched d.sched, engineTurn_header d.noOp d.busy hw]

theorem Decoding.step_walk {s : State} (d : Decoding s) (hw : s.wstate = .wRecords) :
    step s = atFrame (walkFrame Config.params) s := by
  rw [step_of_no_sched d.sched, engineTurn_walk d.noOp d.busy hw]
  rfl

/-! The image of the container (R64) -/

theorem Decoding.image {s : State} (d : Decoding s) {a n : Nat} (ha : a + n ≤ s.size.toNat) :
    imgBytes s a n = .ok (((Memory.bytes s.src).drop (6 + a)).take n) :=
  imgBytes_eq d.srcWf ha d.fits

/-- The image is SRC and SIZE and nothing else of the state. -/
theorem imgByte_congr {s t : State} (src : t.src = s.src) (size : t.size = s.size) (a : Nat) :
    imgByte t a = imgByte s a := by
  rw [imgByte, imgByte, src, size]

theorem imgBytes_congr {s t : State} (h : ∀ a, imgByte t a = imgByte s a) (a n : Nat) : imgBytes t a n = imgBytes s a n := by
  induction n generalizing a with
  | zero => rfl
  | succ n ih => rw [imgBytes, imgBytes, h, ih]

theorem imgBytes_cons_iff {s : State} {a n : Nat} {b : Byte} {bs : List Byte} :
    imgBytes s a (n + 1) = .ok (b :: bs) ↔ imgByte s a = .ok b ∧ imgBytes s (a + 1) n = .ok bs := by
  rw [imgBytes]
  cases imgByte s a with
  | error f => simp
  | ok c =>
    cases imgBytes s (a + 1) n with
    | error f => simp
    | ok cs => simp

/-- Two pieces of the image end to end. -/
theorem imgBytes_append {s : State} {a : Nat} {xs ys : List Byte} {n : Nat} (hx : imgBytes s a xs.length = .ok xs)
    (hy : imgBytes s (a + xs.length) n = .ok ys) : imgBytes s a (xs.length + n) = .ok (xs ++ ys) := by
  induction xs generalizing a with
  | nil => simpa using hy
  | cons x xs ih =>
    obtain ⟨first, later⟩ := imgBytes_cons_iff.1 hx
    rw [List.length_cons, Nat.add_right_comm, List.cons_append, imgBytes_cons_iff]
    exact ⟨first, ih later (by rwa [Nat.add_assoc, Nat.add_comm 1])⟩

/-! The header step (R198) -/

/-- The header step latches image bytes 0..9, sets CSA and perhaps CSUM_MISMATCH, and starts the walk. -/
theorem decodeHeader_eq (p : Params) {s : State} {h : List Byte} (hi : imgBytes s 0 10 = .ok h) :
    decodeHeader p s = .next
      (if (h.getD 0 0).getLsbD 4 = p.bootSense then { s with hdr := h, cur := 0x0A, wstate := .wRecords, csa := 0 }
       else
        { s with
          hdr := h
          cur := 0x0A
          wstate := .wRecords
          csa := checksum h
          csMatch := decide (checksum h = storedChecksum h)
          diag := if checksum h = storedChecksum h then s.diag else s.diag ||| 0x01#8 }) := by
  have ten := imgBytes_length hi
  rw [decodeHeader, hi]
  simp only [orFault, parseHeader, headerInfo, checkHeader_eq p (show 8 ≤ h.length by omega)]
  by_cases boot : (h.getD 0 0).getLsbD 4 = p.bootSense
  · simp only [if_pos boot]
    rfl
  · simp only [if_neg boot]
    by_cases same : checksum h = storedChecksum h
    · simp only [if_pos same]
      rfl
    · simp only [if_neg same]
      rfl

/-- Settles O28: `decodeHeader_eq` with image bytes 0..9 as SRC holds them. -/
theorem decodeHeaderStep : Obligations.DecodeHeaderStep := by
  unfold Obligations.DecodeHeaderStep
  intro s hs hb noOp hw srcWf sizeMin fits
  have d : Decoding s := ⟨hs, hb, noOp, srcWf, sizeMin, fits⟩
  refine ⟨_, rfl, ?_⟩
  rw [d.step_header hw]
  exact decodeHeader_eq _ (d.image (by omega))

/-! The result step (R200) -/

theorem packEndAddr_eq {s : State} (ended : s.wstate = .wEnd → s.endValid = true) :
    packEndAddr s = .ok (if s.wstate = .wEnd then some s.endAddr else none) := by
  unfold packEndAddr
  split
  next hw =>
    rw [readEndAddr, if_pos (ended hw)]
    rfl
  next => rfl

/-- HDR_PARSE's result is the header's alone: CSA is cleared before anything is fed (R144, R291). -/
theorem parseHeader_pure (p : Params) {h : List Byte} (hl : 8 ≤ h.length) (s s' : State) :
    (parseHeader p h s).2 = (parseHeader p h s').2 := by
  simp only [parseHeader, checkHeader_eq p hl]
  by_cases boot : (h.getD 0 0).getLsbD 4 = p.bootSense
  · simp only [if_pos boot, csaClear_csa]
  · simp only [if_neg boot]

/-- At a terminal of the walk the result step answers the DecodedPack of the registers. -/
theorem step_result {s : State} (hs : s.sched = []) (hb : s.busy = true) (noOp : s.xstate.inOperation = false)
    (terminal : s.wstate = .wEnd ∨ s.wstate = .wSize ∨ s.wstate = .wTrunc)
    (ended : s.wstate = .wEnd → s.endValid = true) {tail : List Byte}
    (ht : imgBytes s s.cur.toNat (s.size.toNat - s.cur.toNat) = .ok tail) :
    step s = .next (finish .ok
      (.decoded (decodedPack Config.params (if s.wstate = .wEnd then some s.endAddr else none) tail s)) s) := by
  rw [step_of_no_sched hs, engineTurn_result noOp hb terminal, decodeResult, ht, packEndAddr_eq ended]
  rfl

/-- Settles O29: `step_result`; the header is HDR_PARSE's by `parseHeader_pure`. -/
theorem decodeResultStep : Obligations.DecodeResultStep := by
  unfold Obligations.DecodeResultStep
  intro s hs hb noOp terminal ended srcWf high fits
  have tail := imgBytes_eq srcWf (Nat.le_of_eq (Nat.add_sub_cancel' high)) fits
  refine ⟨_, step_result hs hb noOp terminal ended tail, rfl, rfl, rfl, rfl, rfl, rfl, rfl, rfl, rfl, rfl, rfl, rfl,
    fun s' hb' ten => ⟨_, exec_hdrParse_runs hb' ten, ?_⟩⟩
  exact congrArg Result.header (parseHeader_pure _ (by omega) _ _)

end Sys2Proof.Machine

namespace Sys2Proof.Machine

/-! Big-endian sizes and lengths: the byte lists and the words they come from (R17, R101) -/

theorem be24_toNat (a b c : Byte) : (be24 a b c).toNat = a.toNat * 65536 + b.toNat * 256 + c.toNat := by
  have := b.isLt
  have := c.isLt
  rw [be24, BitVec.toNat_append, BitVec.toNat_append, ← Nat.shiftLeft_add_eq_or_of_lt c.isLt,
    ← Nat.shiftLeft_add_eq_or_of_lt b.isLt, Nat.shiftLeft_eq, Nat.shiftLeft_eq]
  omega

theorem bytes24_be24 (a b c : Byte) : bytes24 (be24 a b c) = [a, b, c] := by
  have ha := a.isLt
  have hb := b.isLt
  have hc := c.isLt
  simp only [bytes24, List.cons.injEq, and_true]
  refine ⟨?_, ?_, ?_⟩ <;> apply BitVec.eq_of_toNat_eq <;>
    rw [BitVec.extractLsb'_toNat, be24_toNat, Nat.shiftRight_eq_div_pow] <;> omega

theorem be24_bytes24 (n : BitVec 24) : be24 (n.extractLsb' 16 8) (n.extractLsb' 8 8) (n.extractLsb' 0 8) = n := by
  have := n.isLt
  apply BitVec.eq_of_toNat_eq
  simp only [be24_toNat, BitVec.extractLsb'_toNat, Nat.shiftRight_eq_div_pow]
  omega

theorem hi8_be16 (h l : Byte) : hi8 (be16 h l) = h := by
  apply BitVec.eq_of_toNat_eq
  rw [hi8, BitVec.extractLsb'_toNat, be16_toNat, Nat.shiftRight_eq_div_pow]
  omega

theorem lo8_be16 (h l : Byte) : lo8 (be16 h l) = l := by
  apply BitVec.eq_of_toNat_eq
  rw [lo8, BitVec.extractLsb'_toNat, be16_toNat, Nat.shiftRight_zero]
  omega

/-! The walk over image addresses: one step at a time (R180, R181) -/

/-- Image addresses stay below 2^25, so CUR holds them exactly. -/
theorem cur_exact {s : State} {n : Nat} (h : n ≤ s.size.toNat) : (BitVec.ofNat 25 n).toNat = n := by
  have := s.size.isLt
  rw [BitVec.toNat_ofNat, Nat.mod_eq_of_lt (by omega)]

/-- A WALK_STEP that ends the walk: nothing is appended. -/
structure WalkEnds (s t : State) : Prop where
  terminal : t.wstate = .wEnd ∨ t.wstate = .wSize ∨ t.wstate = .wTrunc
  cur : t.cur = s.cur
  recs : t.recs = s.recs
  ended : t.wstate = .wEnd → t.endValid = true

/-- A WALK_STEP that appends: the entry's frame is the image from CUR, and CUR passes it. -/
structure WalkAppends (s t : State) (e : RecEntry) (f : List Byte) : Prop where
  wstate : t.wstate = .wRecords
  recs : t.recs = s.recs ++ [e]
  encoded : frameBytes (descriptor e) = some f
  image : imgBytes s s.cur.toNat f.length = .ok f
  atLeast : 2 ≤ f.length
  fits : s.cur.toNat + f.length ≤ s.size.toNat
  cur : t.cur.toNat = s.cur.toNat + f.length

theorem imgBytes_pair {s : State} {a : Nat} {b0 b1 : Byte} {q : List Byte} {n : Nat} (h0 : imgByte s a = .ok b0)
    (h1 : imgByte s (a + 1) = .ok b1) (hq : imgBytes s (a + 2) n = .ok q) :
    imgBytes s a (n + 2) = .ok (b0 :: b1 :: q) :=
  imgBytes_cons_iff.2 ⟨h0, imgBytes_cons_iff.2 ⟨h1, hq⟩⟩

theorem frameBytes_bad {lead : Byte} (notEnd : lead ≠ 0xFF#8) : frameBytes (.bad lead) = some [lead, 0xFF] :=
  if_neg notEnd

theorem frameBytes_long {lead h l : Byte} {q : List Byte} (notEnd : lead ≠ 0xFF#8) (hl : q.length = (be16 h l).toNat) :
    frameBytes (.long lead q) = some (lead :: 0x80 :: h :: l :: q) := by
  have := (be16 h l).isLt
  have word : BitVec.ofNat 16 q.length = be16 h l := by rw [hl, BitVec.ofNat_toNat, BitVec.setWidth_eq]
  rw [frameBytes, if_neg (by simp only [notEnd, false_or]; omega), word, hi8_be16, lo8_be16]

theorem frameBytes_short {b0 b1 : Byte} {q : List Byte} (notEnd : b0 ≠ 0xFF#8) (notBad : b1 ≠ 0xFF#8)
    (notLong : b1 ≠ 0x80#8) (hl : q.length = b0.toNat) : frameBytes (.short b1 q) = some (b0 :: b1 :: q) := by
  have below : b0.toNat ≠ 0xFF := fun e => notEnd (BitVec.eq_of_toNat_eq e)
  have := b0.isLt
  have byte : BitVec.ofNat 8 q.length = b0 := by rw [hl, BitVec.ofNat_toNat, BitVec.setWidth_eq]
  rw [frameBytes, if_neg (by simp only [notBad, notLong, or_self, or_false]; omega), byte]

/-- What a WALK_STEP does to CUR and RECS: it ends the walk, or it appends the frame that stands at CUR. -/
theorem walkStep_outcome {p : Params} {s t : State} (h : atFrame (walkFrame p) s = .next t) :
    WalkEnds s t ∨ ∃ e f, WalkAppends s t e f := by
  obtain ⟨hw, -, ⟨-, rfl⟩ | ⟨-, rfl⟩ | ⟨-, rfl⟩ | ⟨b, notEnd, h0, h1, fits, rfl⟩ |
    ⟨b, x, y, q, notEnd, h0, h1, hx, hy, hq, fits, rfl⟩ |
    ⟨b, y, q, notEnd, notBad, notLong, h0, h1, hq, fits, rfl⟩⟩ := walkStep_cases h
  · exact .inl ⟨.inr (.inl rfl), rfl, rfl, nofun⟩
  · exact .inl ⟨.inl rfl, rfl, rfl, fun _ => rfl⟩
  · exact .inl ⟨.inr (.inr rfl), rfl, rfl, nofun⟩
  · rw [walkBad_fits fits]
    exact .inr ⟨badEntry b s, [b, 0xFF], hw, rfl, frameBytes_bad notEnd, imgBytes_pair h0 h1 rfl, Nat.le_refl 2, fits,
      cur_exact fits⟩
  · have len := imgBytes_length hq
    refine .inr ⟨longEntry b (be16 x y) q s, b :: 0x80 :: x :: y :: q, hw, rfl, frameBytes_long notEnd len, ?_, ?_, ?_,
      ?_⟩
    · rw [← len] at hq
      exact imgBytes_pair h0 h1 (imgBytes_pair hx hy hq)
    · simp
    · simp only [List.length_cons]
      omega
    · rw [appendLong_cur, cur_exact (s := s) (by omega)]
      simp only [List.length_cons]
      omega
  · have len := imgBytes_length hq
    refine .inr ⟨shortEntryOf p (kindOf y b.toNat) b y q s, b :: y :: q, ?_, rfl, ?_, ?_, by simp, ?_, ?_⟩
    · rw [appendShort, shortEffect_frame]
      exact hw
    · rw [shortEntryOf_frame]
      exact frameBytes_short notEnd notBad notLong len
    · rw [← len] at hq
      exact imgBytes_pair h0 h1 hq
    · simp only [List.length_cons]
      omega
    · show (BitVec.ofNat 25 (s.cur.toNat + 2 + b.toNat)).toNat = _
      rw [cur_exact (s := s) (by omega)]
      simp only [List.length_cons]
      omega

/-- WALK_STEP writes the walk's registers, REG, RECS, DIAG and END_ADDR, and nothing else. -/
theorem walkStep_frame {p : Params} {s t : State} (h : atFrame (walkFrame p) s = .next t) :
    t = { s with
          wstate := t.wstate, cur := t.cur, nShort := t.nShort, nLong := t.nLong, nBad := t.nBad, diag := t.diag,
          endAddr := t.endAddr, endValid := t.endValid, reg := t.reg, recs := t.recs } := by
  obtain ⟨-, -, ⟨-, rfl⟩ | ⟨-, rfl⟩ | ⟨-, rfl⟩ | ⟨b, -, -, -, fits, rfl⟩ | ⟨b, x, y, q, -, -, -, -, -, -, -, rfl⟩ |
    ⟨b, y, q, -, -, -, -, -, -, -, rfl⟩⟩ := walkStep_cases h
  · rfl
  · rfl
  · rfl
  · rw [walkBad_fits fits]
  · rfl
  · rw [appendShort, shortEffect_frame]

/-- In W_RECORDS with CUR at or below SIZE, WALK_STEP always answers a next state: every byte it reads is there. -/
theorem walkStep_next {p : Params} {s : State} (hw : s.wstate = .wRecords) (srcWf : Memory.wf s.src = true)
    (fits : 6 + s.size.toNat ≤ s.src.length) (high : s.cur.toNat ≤ s.size.toNat) :
    ∃ t, atFrame (walkFrame p) s = .next t := by
  have byteAt {a : Nat} (ha : a < s.size.toNat) : ∃ b, imgByte s a = .ok b := ⟨_, imgByte_eq srcWf ha fits⟩
  have bytesAt {a n : Nat} (ha : a + n ≤ s.size.toNat) : ∃ q, imgBytes s a n = .ok q := ⟨_, imgBytes_eq srcWf ha fits⟩
  by_cases atSize : s.cur.toNat = s.size.toNat
  · exact ⟨_, atFrame_size hw atSize⟩
  obtain ⟨b0, h0⟩ := byteAt (show s.cur.toNat < s.size.toNat by omega)
  rw [atFrame_runs hw (imgByte_lt h0)]
  by_cases endRow : b0 = 0xFF#8
  · subst endRow
    exact ⟨_, walkFrame_end h0⟩
  by_cases pairCut : s.size.toNat < s.cur.toNat + 2
  · exact ⟨_, walkFrame_trunc h0 endRow pairCut⟩
  obtain ⟨b1, h1⟩ := byteAt (show s.cur.toNat + 1 < s.size.toNat by omega)
  by_cases badRow : b1 = 0xFF#8
  · subst badRow
    exact ⟨_, walkFrame_bad h0 endRow h1⟩
  by_cases longRow : b1 = 0x80#8
  · subst longRow
    by_cases headCut : s.size.toNat < s.cur.toNat + 4
    · exact ⟨_, walkFrame_long_trunc h0 endRow h1 headCut⟩
    obtain ⟨x, hx⟩ := byteAt (show s.cur.toNat + 2 < s.size.toNat by omega)
    obtain ⟨y, hy⟩ := byteAt (show s.cur.toNat + 3 < s.size.toNat by omega)
    rw [walkFrame_long h0 endRow h1 hx hy]
    by_cases cut : s.size.toNat < s.cur.toNat + 4 + (be16 x y).toNat
    · exact ⟨_, walkLong_trunc cut b0⟩
    · obtain ⟨q, hq⟩ := bytesAt (show s.cur.toNat + 4 + (be16 x y).toNat ≤ s.size.toNat by omega)
      exact ⟨_, walkLong_fits (by omega) hq⟩
  · rw [walkFrame_short h0 endRow h1 badRow longRow]
    by_cases cut : s.size.toNat < s.cur.toNat + 2 + b0.toNat
    · exact ⟨_, walkShort_trunc cut p _ b1⟩
    · obtain ⟨q, hq⟩ := bytesAt (show s.cur.toNat + 2 + b0.toNat ≤ s.size.toNat by omega)
      exact ⟨_, walkShort_fits (by omega) hq⟩

/-! A DECODE past its header step -/

/-- A DECODE whose walk has started. -/
structure Walking (s : State) : Prop extends Decoding s where
  walked : s.wstate.walked = true
  ten : s.hdr.length = 10
  low : 10 ≤ s.cur.toNat
  high : s.cur.toNat ≤ s.size.toNat
  ended : s.wstate = .wEnd → s.endValid = true

theorem Walking.terminal {s : State} (w : Walking s) (stopped : s.wstate ≠ .wRecords) :
    s.wstate = .wEnd ∨ s.wstate = .wSize ∨ s.wstate = .wTrunc := by
  have walked := w.walked
  cases hw : s.wstate <;> simp_all [WState.walked]

theorem Walking.step_next {s : State} (w : Walking s) (hw : s.wstate = .wRecords) : ∃ t, step s = .next t := by
  rw [w.step_walk hw]
  exact walkStep_next hw w.srcWf w.fits w.high

theorem Walking.outcome {s t : State} (w : Walking s) (hw : s.wstate = .wRecords) (h : step s = .next t) :
    WalkEnds s t ∨ ∃ e f, WalkAppends s t e f := walkStep_outcome (w.step_walk hw ▸ h)

theorem Walking.frame {s t : State} (w : Walking s) (hw : s.wstate = .wRecords) (h : step s = .next t) :
    t = { s with
          wstate := t.wstate, cur := t.cur, nShort := t.nShort, nLong := t.nLong, nBad := t.nBad, diag := t.diag,
          endAddr := t.endAddr, endValid := t.endValid, reg := t.reg, recs := t.recs } :=
  walkStep_frame (w.step_walk hw ▸ h)

/-- The image does not change while the walk goes over it. -/
theorem Walking.image_eq {s t : State} (w : Walking s) (hw : s.wstate = .wRecords) (h : step s = .next t) (a : Nat) :
    imgByte t a = imgByte s a := by
  have e := w.frame hw h
  exact imgByte_congr (by rw [e]) (by rw [e]) a

/-- A WALK_STEP leaves a walk. -/
theorem Walking.next {s t : State} (w : Walking s) (hw : s.wstate = .wRecords) (h : step s = .next t) : Walking t := by
  have e := w.frame hw h
  have hsize : t.size = s.size := by rw [e]
  have d : Decoding t := by
    rw [e]
    exact ⟨w.sched, w.busy, w.noOp, w.srcWf, w.sizeMin, w.fits⟩
  have ten : t.hdr.length = 10 := by rw [e]; exact w.ten
  have low := w.low
  have high := w.high
  rcases w.outcome hw h with ends | ⟨e, f, app⟩
  · have walked : t.wstate.walked = true := by rcases ends.terminal with hw | hw | hw <;> rw [hw] <;> rfl
    exact ⟨d, walked, ten, by rw [ends.cur]; exact low, by rw [ends.cur, hsize]; exact high, ends.ended⟩
  · have fits := app.fits
    refine ⟨d, by rw [app.wstate]; rfl, ten, by rw [app.cur]; omega, by rw [app.cur, hsize]; omega, fun hw => ?_⟩
    rw [app.wstate] at hw
    cases hw

/-- At a terminal the result step completes with the DecodedPack of the registers. -/
theorem Walking.result {s : State} (w : Walking s) (stopped : s.wstate ≠ .wRecords) :
    ∃ tail, imgBytes s s.cur.toNat (s.size.toNat - s.cur.toNat) = .ok tail ∧
      step s = .next (finish .ok
        (.decoded (decodedPack Config.params (if s.wstate = .wEnd then some s.endAddr else none) tail s)) s) := by
  have high := w.high
  have tail := w.image (a := s.cur.toNat) (n := s.size.toNat - s.cur.toNat) (by omega)
  exact ⟨_, tail, step_result w.sched w.busy w.noOp (w.terminal stopped) w.ended tail⟩

/-! Runs of a DECODE -/

theorem runBusy_done {s : State} (hb : s.busy = false) (n : Nat) : runBusy n s = .next s := by
  cases n with
  | zero => rfl
  | succ n => rw [runBusy, if_neg (by simp [hb])]

/-- A run that has ended has passed through a terminal of the walk, which has every property that the walk's steps keep. -/
theorem Walking.run_induction {P : State → Prop}
    (keeps : ∀ s t, Walking s → s.wstate = .wRecords → P s → step s = .next t → P t)
    {s : State} (w : Walking s) (hp : P s) {n : Nat} {t : State} (run : runBusy n s = .next t) (hb : t.busy = false) :
    ∃ u, Walking u ∧ u.wstate ≠ .wRecords ∧ P u ∧ step u = .next t := by
  induction n generalizing s with
  | zero =>
    cases run
    rw [w.busy] at hb
    cases hb
  | succ n ih =>
    by_cases hw : s.wstate = .wRecords
    · obtain ⟨u, hu⟩ := w.step_next hw
      rw [Tests.runBusy_step w.busy hu] at run
      exact ih (w.next hw hu) (keeps s u w hw hp hu) run
    · obtain ⟨tail, -, hres⟩ := w.result hw
      rw [Tests.runBusy_step w.busy hres, runBusy_done rfl] at run
      exact ⟨s, w, hw, hp, hres.trans run⟩

/-- Each frame has two bytes or more, so the walk ends within `(SIZE - CUR) / 2 + 1` steps, and the result step follows. -/
theorem Walking.completes {s : State} (w : Walking s) {n : Nat} (pos : 1 ≤ n)
    (enough : s.wstate = .wRecords → (s.size.toNat - s.cur.toNat) / 2 + 2 ≤ n) :
    ∃ t pack, runBusy n s = .next t ∧ t.busy = false ∧ t.status = 0x00 ∧ t.hrsp.result = .decoded pack := by
  induction n generalizing s with
  | zero => omega
  | succ n ih =>
    by_cases hw : s.wstate = .wRecords
    · obtain ⟨t, ht⟩ := w.step_next hw
      have enough := enough hw
      rw [Tests.runBusy_step w.busy ht]
      refine ih (w.next hw ht) (by omega) fun hwt => ?_
      rcases w.outcome hw ht with ends | ⟨e, f, app⟩
      · rcases ends.terminal with stop | stop | stop <;> rw [stop] at hwt <;> cases hwt
      · have hsize : t.size = s.size := by rw [w.frame hw ht]
        have := app.atLeast
        have := app.fits
        rw [app.cur, hsize]
        omega
    · obtain ⟨tail, -, hres⟩ := w.result hw
      rw [Tests.runBusy_step w.busy hres, runBusy_done rfl]
      exact ⟨_, _, rfl, rfl, rfl, rfl⟩

/-! The header step of a DECODE -/

/-- DIAG after the header step: CSUM_MISMATCH is the header's own matter (R149). -/
def headerDiag (p : Params) (h : List Byte) (d : Byte) : Byte :=
  if (h.getD 0 0).getLsbD 4 = p.bootSense ∨ checksum h = storedChecksum h then d else d ||| 0x01#8

/-- The header step starts the walk at 0x0A with image bytes 0..9 in HDR. -/
theorem Decoding.header_next {s : State} (d : Decoding s) (hw : s.wstate = .wHeader) :
    ∃ h t, imgBytes s 0 10 = .ok h ∧ step s = .next t ∧ Walking t ∧
      t = { s with
            hdr := h, cur := 0x0A, wstate := .wRecords, csa := t.csa, csMatch := t.csMatch,
            diag := headerDiag Config.params h s.diag } := by
  have hi := d.image (a := 0) (n := 10) (by have := d.sizeMin; omega)
  refine ⟨_, _, hi, (d.step_header hw).trans (decodeHeader_eq _ hi), ?_⟩
  have ten := imgBytes_length hi
  generalize ((Memory.bytes s.src).drop (6 + 0)).take 10 = h at ten
  have sizeMin := d.sizeMin
  by_cases boot : (h.getD 0 0).getLsbD 4 = Config.params.bootSense
  · rw [if_pos boot, headerDiag, if_pos (.inl boot)]
    exact ⟨⟨⟨d.sched, d.busy, d.noOp, d.srcWf, sizeMin, d.fits⟩, rfl, ten, Nat.le_refl 10, sizeMin, nofun⟩, rfl⟩
  · rw [if_neg boot, headerDiag]
    simp only [boot, false_or]
    exact ⟨⟨⟨d.sched, d.busy, d.noOp, d.srcWf, sizeMin, d.fits⟩, rfl, ten, Nat.le_refl 10, sizeMin, nofun⟩, trivial⟩

/-- Settles O30: acceptance, the header step, then `Walking.completes`. -/
theorem decodeCompletes : Obligations.DecodeCompletes := by
  unfold Obligations.DecodeCompletes
  intro src s hr ok
  have hb := ((ready_iff s).1 hr).1
  have d := accepted_decoding hr ok
  obtain ⟨h, u, -, hu, w, e⟩ := d.header_next rfl
  have hcur : u.cur.toNat = 10 := by rw [e]; rfl
  have hsize : u.size = containerSize src := by rw [e]; rfl
  obtain ⟨t, pack, run, ended⟩ := w.completes (n := ((containerSize src).toNat - 10) / 2 + 1 + 1) (by omega)
    (fun _ => by rw [hcur, hsize])
  exact ⟨accepted src s, t, pack, exec_decode_acceptable hb ok, (Tests.runBusy_step d.busy hu).trans run, ended⟩

/-- A DECODE that completes with a DecodedPack had an acceptable container, and its header step starts the walk whose run
ends with the answer. -/
theorem decodesTo_cases {s : State} {src : List Byte} {pack : DecodedPack} (hr : ready s = true)
    (h : decodesTo s src pack) :
    acceptable src = true ∧ ∃ hdr u n t, imgBytes (accepted src s) 0 10 = .ok hdr ∧ step (accepted src s) = .next u ∧
      Walking u ∧
      u = { accepted src s with
            hdr := hdr, cur := 0x0A, wstate := .wRecords, csa := u.csa, csMatch := u.csMatch,
            diag := headerDiag Config.params hdr (accepted src s).diag } ∧
      runBusy n u = .next t ∧ t.busy = false ∧ t.hrsp.result = .decoded pack := by
  obtain ⟨s1, n, t, he, run, hb, -, hres⟩ := h
  have hidle := ((ready_iff s).1 hr).1
  by_cases ok : acceptable src = true
  · rw [exec_decode_acceptable hidle ok] at he
    obtain rfl := Host.Outcome.next.inj he
    have d := accepted_decoding hr ok
    obtain ⟨hdr, u, hi, hu, w, e⟩ := d.header_next rfl
    cases n with
    | zero =>
      cases run
      cases hb
    | succ n =>
      rw [Tests.runBusy_step d.busy hu] at run
      exact ⟨ok, hdr, u, n, t, hi, hu, w, e, run, hb, hres⟩
  · obtain ⟨c, u, hu⟩ := exec_decode_rejected hidle ok
    rw [hu] at he
    obtain rfl := Host.Outcome.next.inj he
    obtain ⟨done, noResult⟩ := raiseAbort_ends (c := c) u
    rw [runBusy_done done] at run
    obtain rfl := Host.Outcome.next.inj run
    rw [noResult] at hres
    cases hres

end Sys2Proof.Machine

namespace Sys2Proof.Machine

/-! What DECODE answers of the image: header, frames and tail end to end (R195, R200) -/

theorem packBytes_append_one {ds : List FrameDesc} {d : FrameDesc} {fs f : List Byte} (hds : packBytes ds = some fs)
    (hd : frameBytes d = some f) : packBytes (ds ++ [d]) = some (fs ++ f) := by
  induction ds generalizing fs with
  | nil =>
    cases hds
    simp only [List.nil_append, packBytes, hd, List.append_nil]
  | cons c cs ih =>
    rw [packBytes] at hds
    split at hds
    next g gs hc hcs =>
      cases hds
      rw [List.cons_append, packBytes, hc, ih hcs, List.append_assoc]
    next => cases hds

/-- The frames of RECS are the image from 0x0A to CUR, and HDR is the image before them. -/
structure WalkedImage (s : State) : Prop where
  header : imgBytes s 0 10 = .ok s.hdr
  frames : ∃ fs, packBytes (s.recs.map descriptor) = some fs ∧ imgBytes s 10 fs.length = .ok fs ∧
    s.cur.toNat = 10 + fs.length

/-- WALK_STEP keeps `WalkedImage`: the frame it appends stands in the image where the frames before it end. -/
theorem WalkedImage.next {s t : State} (w : Walking s) (hw : s.wstate = .wRecords) (i : WalkedImage s)
    (h : step s = .next t) : WalkedImage t := by
  have hdr : t.hdr = s.hdr := by rw [w.frame hw h]
  have image := imgBytes_congr (w.image_eq hw h)
  obtain ⟨fs, hfs, himg, hcur⟩ := i.frames
  refine ⟨by rw [image, hdr, i.header], ?_⟩
  rcases w.outcome hw h with ends | ⟨e, f, app⟩
  · exact ⟨fs, by rw [ends.recs, hfs], by rw [image, himg], by rw [ends.cur, hcur]⟩
  · have hf := app.image
    rw [hcur] at hf
    refine ⟨fs ++ f, ?_, ?_, ?_⟩
    · rw [app.recs, List.map_append]
      exact packBytes_append_one hfs app.encoded
    · rw [image, List.length_append, imgBytes_append himg hf]
    · rw [app.cur, hcur, List.length_append, Nat.add_assoc]

/-- The DecodedPack's header, frames and tail, end to end, are the image. -/
theorem decodesTo_image {s : State} {src : List Byte} {pack : DecodedPack} (hr : ready s = true)
    (h : decodesTo s src pack) :
    pack.size = containerSize src ∧ pack.hdr.length = 10 ∧
      ∃ fs, packBytes (pack.recs.map descriptor) = some fs ∧
        pack.hdr ++ (fs ++ pack.tail) = (src.drop 6).take pack.size.toNat := by
  obtain ⟨ok, hdr, u, n, t, hi, hu, w, e, run, hb, hres⟩ := decodesTo_cases hr h
  have image : ∀ a k, imgBytes u a k = imgBytes (accepted src s) a k :=
    imgBytes_congr fun a => imgByte_congr (by rw [e]) (by rw [e]) a
  have start : WalkedImage u :=
    ⟨by rw [image, hi, e], [], by rw [e]; rfl, rfl, by rw [e]; rfl⟩
  obtain ⟨v, wv, stopped, ⟨iv, hsize, hsrc⟩, hv⟩ :=
    w.run_induction (P := fun v => WalkedImage v ∧ v.size = containerSize src ∧ Memory.bytes v.src = src)
      (fun a b wa ha hp hab => ⟨hp.1.next wa ha hab, by rw [wa.frame ha hab]; exact hp.2.1,
        by rw [wa.frame ha hab]; exact hp.2.2⟩)
      ⟨start, by rw [e]; rfl, by rw [e]; exact bytes_ofBytes src⟩ run hb
  obtain ⟨tail, htail, hstep⟩ := wv.result stopped
  obtain rfl := Host.Outcome.next.inj (hstep.symm.trans hv)
  obtain rfl := Result.decoded.inj hres
  obtain ⟨fs, hfs, himg, hcur⟩ := iv.frames
  have high := wv.high
  refine ⟨hsize, wv.ten, fs, hfs, ?_⟩
  have whole : imgBytes v 0 (v.hdr.length + (fs.length + (v.size.toNat - v.cur.toNat))) = .ok (v.hdr ++ (fs ++ tail)) := by
    have ten := wv.ten
    refine imgBytes_append (by rw [ten]; exact iv.header) (imgBytes_append (by rw [ten]; exact himg) ?_)
    rw [ten, Nat.zero_add, ← hcur]
    exact htail
  rw [wv.image (by rw [wv.ten]; omega)] at whole
  have lengths : v.hdr.length + (fs.length + (v.size.toNat - v.cur.toNat)) = v.size.toNat := by rw [wv.ten]; omega
  rw [lengths, hsrc] at whole
  exact (Except.ok.inj whole).symm

/-! ENCODE (R203 to R206) -/

theorem exec_encode {pack : PackOperand} {cfg : BitVec 40} {dst : Nat} {s : State} (hb : s.busy = false)
    (ten : pack.hdr.length = 10) (legal : cfgPackType cfg ≠ 3#2) :
    exec (.encode pack cfg dst) s = encodeBody pack cfg dst (accept s) :=
  hostCommand_runs hb rfl (by simp [ten]) (cfgLegal_of_packType legal)

/-- The image ENCODE forms: the patched header, the frames and the tail (R204, R206). -/
def encodedImage (pack : PackOperand) (cfg : BitVec 40) (frames : List Byte) (s : State) : List Byte :=
  (patchHeader pack.hdr cfg s).2 ++ (frames ++ pack.tail)

theorem encodedImage_length {pack : PackOperand} (ten : pack.hdr.length = 10) (cfg : BitVec 40) (frames : List Byte)
    (s : State) : (encodedImage pack cfg frames s).length = 10 + (frames.length + pack.tail.length) := by
  rw [encodedImage, List.length_append, patchHeader_length ten, List.length_append]

section
variable {pack : PackOperand} {cfg : BitVec 40} {dst : Nat} {s : State}

theorem encodeBody_invalid (invalid : packBytes pack.recs = none) :
    encodeBody pack cfg dst s = .next (raiseAbort .frameInvalid (encodeInit cfg dst s)) := by
  rw [encodeBody, invalid]

theorem encodeBody_sizeError {frames : List Byte} (valid : packBytes pack.recs = some frames)
    (ten : pack.hdr.length = 10)
    (large : 0xFFFFFF < 10 + (frames.length + pack.tail.length) ∨
      cfgHwBound cfg = true ∧ 0xFFFF < 10 + (frames.length + pack.tail.length)) :
    encodeBody pack cfg dst s = .next (raiseAbort .sizeError (patchHeader pack.hdr cfg (encodeInit cfg dst s)).1) := by
  rw [← encodedImage_length ten cfg frames (encodeInit cfg dst s)] at large
  simp only [encodeBody, valid]
  exact if_pos large

theorem encodeBody_writes {frames : List Byte} (valid : packBytes pack.recs = some frames) (ten : pack.hdr.length = 10)
    (fits : 10 + (frames.length + pack.tail.length) ≤ 0xFFFFFF)
    (bound : cfgHwBound cfg = true → 10 + (frames.length + pack.tail.length) ≤ 0xFFFF) :
    encodeBody pack cfg dst s = .next (finish .ok .none
      (appendSink dst (containerOf (encodedImage pack cfg frames (encodeInit cfg dst s)))
        (patchHeader pack.hdr cfg (encodeInit cfg dst s)).1)) := by
  have small : ¬ (0xFFFFFF < (encodedImage pack cfg frames (encodeInit cfg dst s)).length ∨
      cfgHwBound cfg = true ∧ Config.hwLimit < (encodedImage pack cfg frames (encodeInit cfg dst s)).length) := by
    rw [encodedImage_length ten]
    rintro (large | ⟨hw, large⟩)
    · omega
    · exact absurd (bound hw) (Nat.not_le.2 large)
  simp only [encodeBody, valid]
  exact if_neg small

end

/-- The header patch reads nothing of the state: CSUM clears CSA first. -/
theorem patchHeader_pure {h : List Byte} (ten : h.length = 10) (cfg : BitVec 40) (s s' : State) :
    (patchHeader h cfg s).2 = (patchHeader h cfg s').2 := by
  have eight : 8 ≤ (patchedHead h cfg).length := by simp [patchedHead, ten]
  simp only [patchHeader, csumBytes_checksum eight]
  split <;> rfl

/-- CSA after the patch: the checksum with RECOMPUTE, else what it was. -/
theorem patchHeader_csa_congr {h : List Byte} (ten : h.length = 10) (cfg : BitVec 40) {s s' : State} (same : s'.csa = s.csa) :
    (patchHeader h cfg s').1.csa = (patchHeader h cfg s).1.csa := by
  have eight : 8 ≤ (patchedHead h cfg).length := by simp [patchedHead, ten]
  simp only [patchHeader, csumBytes_checksum eight]
  split
  · rfl
  · exact same

theorem encodeInit_sink (cfg : BitVec 40) (dst : Nat) {s : State} (hw : Store.wf s.sinks = true) :
    sinkOf (encodeInit cfg dst s) dst = [] := store_get_set hw []

theorem encodeInit_other (cfg : BitVec 40) {dst r : Nat} (other : r ≠ dst) (s : State) :
    sinkOf (encodeInit cfg dst s) r = sinkOf s r := store_get_set_other _ _ _ _ other

theorem encodeInit_wf (cfg : BitVec 40) (dst : Nat) {s : State} (hw : Store.wf s.sinks = true) :
    Store.wf (encodeInit cfg dst s).sinks = true := store_set_wf hw rfl

/-- Sinks are a function of the store alone. -/
theorem sinkOf_congr {s t : State} (same : t.sinks = s.sinks) (r : Nat) : sinkOf t r = sinkOf s r := by
  rw [sinkOf, sinkOf, same]

theorem patchHeader_sinks (h : List Byte) (cfg : BitVec 40) (s : State) : (patchHeader h cfg s).1.sinks = s.sinks := by
  rw [patchHeader_frame]

/-- ENCODE of a pack that is valid and fits: the whole effect. -/
theorem exec_encode_writes {pack : PackOperand} {cfg : BitVec 40} {dst : Nat} {frames : List Byte} {s : State}
    (hb : s.busy = false) (ten : pack.hdr.length = 10) (legal : cfgPackType cfg ≠ 3#2)
    (valid : packBytes pack.recs = some frames) (fits : 10 + (frames.length + pack.tail.length) ≤ 0xFFFFFF)
    (bound : cfgHwBound cfg = true → 10 + (frames.length + pack.tail.length) ≤ 0xFFFF) (hw : Store.wf s.sinks = true) :
    ∃ t, exec (.encode pack cfg dst) s = .next t ∧
      t = { answered s 0x00 .none with cfg := cfg, csa := (patchHeader pack.hdr cfg s).1.csa, sinks := t.sinks } ∧
      Memory.bytes (sinkOf t dst) = containerOf (encodedImage pack cfg frames s) ∧
      ∀ r, r ≠ dst → sinkOf t r = sinkOf s r := by
  have kept := patchHeader_sinks pack.hdr cfg (encodeInit cfg dst (accept s))
  have wf := encodeInit_wf cfg dst (s := accept s) hw
  have image : encodedImage pack cfg frames (encodeInit cfg dst (accept s)) = encodedImage pack cfg frames s := by
    rw [encodedImage, encodedImage, patchHeader_pure ten cfg _ s]
  refine ⟨_, (exec_encode hb ten legal).trans (encodeBody_writes valid ten fits bound), ?_, ?_, fun r other => ?_⟩
  · have csa := patchHeader_csa_congr (s := s) (s' := encodeInit cfg dst (accept s)) ten cfg rfl
    rw [patchHeader_frame, csa]
    rfl
  · rw [sinkOf_congr (finish_sinks _ _ _), appendSink_bytes _ _ _ (by rw [kept]; exact wf), sinkOf_congr kept,
      encodeInit_sink cfg dst (s := accept s) hw, image]
    rfl
  · rw [sinkOf_congr (finish_sinks _ _ _), appendSink_other _ _ _ _ other, sinkOf_congr kept, encodeInit_other cfg other]
    rfl

theorem containerOf_encodedImage {pack : PackOperand} (ten : pack.hdr.length = 10) (cfg : BitVec 40) (frames : List Byte)
    (s : State) :
    containerOf (encodedImage pack cfg frames s) =
      [0x4F#8, 0x50#8, 0x4B#8] ++ bytes24 (BitVec.ofNat 24 (10 + (frames.length + pack.tail.length))) ++
        (patchHeader pack.hdr cfg s).2 ++ frames ++ pack.tail := by
  rw [containerOf, encodedImage_length ten, encodedImage]
  simp only [List.append_assoc]
  rfl

/-- Settles O35: `exec_encode_writes`. -/
theorem encodeWritesContainer : Obligations.EncodeWritesContainer := by
  unfold Obligations.EncodeWritesContainer
  intro pack cfg dst frames s hb ten legal valid fits bound hw
  obtain ⟨t, run, frame, sink, others⟩ := exec_encode_writes (dst := dst) hb ten legal valid fits bound hw
  exact ⟨t, run, frame, sink.trans (containerOf_encodedImage ten cfg frames s), fun r i other => by rw [others r other]⟩

/-- An ENCODE that aborts leaves its sink empty and every other sink as it was (log entry 15). -/
theorem encodeInit_reads (cfg : BitVec 40) {dst : Nat} {s t : State} (hw : Store.wf s.sinks = true)
    (kept : t.sinks = (encodeInit cfg dst (accept s)).sinks) :
    (∀ i, Memory.read (sinkOf t dst) i = none) ∧
      ∀ r i, r ≠ dst → Memory.read (sinkOf t r) i = Memory.read (sinkOf s r) i := by
  constructor
  · intro i
    rw [sinkOf_congr kept, encodeInit_sink cfg dst (s := accept s) hw]
    rfl
  · intro r i other
    rw [sinkOf_congr kept, encodeInit_other cfg other]
    rfl

/-- Settles O36: `encodeBody_invalid` before `encodeBody_sizeError`, and `encodeInit_reads` for the sinks. -/
theorem encodeAborts : Obligations.EncodeAborts := by
  unfold Obligations.EncodeAborts
  intro pack cfg dst s hb noOp ten legal hw
  constructor
  · intro invalid
    have abort := raiseAbort_codec (c := .frameInvalid) (s := encodeInit cfg dst (accept s)) (by decide) noOp rfl
    refine ⟨_, (exec_encode hb ten legal).trans (encodeBody_invalid invalid), ?_⟩
    rw [abort]
    exact ⟨rfl, encodeInit_reads cfg hw rfl⟩
  · intro frames valid large
    have xstate : (patchHeader pack.hdr cfg (encodeInit cfg dst (accept s))).1.xstate = s.xstate := by
      rw [patchHeader_frame]
      rfl
    refine ⟨_, (exec_encode hb ten legal).trans (encodeBody_sizeError valid ten large), ?_⟩
    rw [raiseAbort_other (by decide)]
    refine ⟨rfl, rfl, ?_, encodeInit_reads cfg hw (patchHeader_sinks _ _ _)⟩
    simp only [xstate, noOp]
    rfl

theorem containerOf_length (img : List Byte) : (containerOf img).length = 6 + img.length := by
  simp only [containerOf, magic, bytes24, List.length_append, List.length_cons, List.length_nil]

/-- Settles O37: 0x10000 is above HW_LIMIT and 0xFFFF is not. -/
theorem encodeSizeCeiling : Obligations.EncodeSizeCeiling := by
  unfold Obligations.EncodeSizeCeiling
  intro pack cfg dst frames s hb noOp ten legal bound valid hw
  constructor
  · intro size
    refine ⟨_, (exec_encode hb ten legal).trans (encodeBody_sizeError valid ten (.inr ⟨bound, by omega⟩)), ?_⟩
    rw [raiseAbort_other (by decide)]
    have kept := patchHeader_sinks pack.hdr cfg (encodeInit cfg dst (accept s))
    exact ⟨rfl, congrArg Memory.bytes ((sinkOf_congr kept dst).trans (encodeInit_sink cfg dst hw))⟩
  · intro size
    obtain ⟨t, run, frame, sink, -⟩ := exec_encode_writes (dst := dst) hb ten legal valid (by omega) (fun _ => by omega) hw
    exact ⟨t, run, by rw [frame]; rfl, by rw [sink, containerOf_length, encodedImage_length ten, size]⟩

/-! Round trips (R209, R210) -/

/-- A container's magic and size field, and its image, end to end. -/
theorem take_container {b : List Byte} (ok : acceptable b = true) :
    b.take (6 + (containerSize b).toNat) = containerOf ((b.drop 6).take (containerSize b).toNat) := by
  obtain ⟨hm, six, -, fits⟩ := (acceptable_iff b).1 ok
  have size : BitVec.ofNat 24 ((b.drop 6).take (containerSize b).toNat).length = containerSize b := by
    rw [List.length_take, List.length_drop, Nat.min_eq_left (by omega), BitVec.ofNat_toNat, BitVec.setWidth_eq]
  rw [containerOf, size, List.take_add]
  match b, six with
  | b0 :: b1 :: b2 :: b3 :: b4 :: b5 :: rest, _ =>
    have field : bytes24 (containerSize (b0 :: b1 :: b2 :: b3 :: b4 :: b5 :: rest)) = [b3, b4, b5] :=
      bytes24_be24 b3 b4 b5
    rw [← hm, field]
    rfl

/-- What ENCODE with an identity CFG writes of a DecodedPack: its container without the surplus. -/
theorem containerOf_decoded {s : State} {b : List Byte} {pack : DecodedPack} (hr : ready s = true)
    (h : decodesTo s b pack) {cfg : BitVec 40} (identity : identityCfg cfg = true) {frames : List Byte}
    (valid : packBytes (packOperand pack).recs = some frames) (s' : State) :
    encodedImage (packOperand pack) cfg frames s' = (b.drop 6).take (containerSize b).toNat := by
  obtain ⟨size, ten, fs, hfs, image⟩ := decodesTo_image hr h
  obtain rfl : fs = frames := Option.some.inj (hfs.symm.trans valid)
  rw [encodedImage, patchHeader_identity identity (by rw [show (packOperand pack).hdr = pack.hdr from rfl]; omega), ← size]
  exact image

/-- The image of a DecodedPack has SIZE bytes. -/
theorem decodesTo_length {s : State} {b : List Byte} {pack : DecodedPack} (hr : ready s = true)
    (h : decodesTo s b pack) {frames : List Byte} (valid : packBytes (packOperand pack).recs = some frames) :
    10 + (frames.length + (packOperand pack).tail.length) = pack.size.toNat := by
  obtain ⟨ok, -⟩ := decodesTo_cases hr h
  obtain ⟨size, ten, fs, hfs, image⟩ := decodesTo_image hr h
  obtain rfl : fs = frames := Option.some.inj (hfs.symm.trans valid)
  obtain ⟨-, -, -, fits⟩ := (acceptable_iff b).1 ok
  have lengths := congrArg List.length image
  simp only [List.length_append, ten, List.length_take, List.length_drop, size] at lengths
  rw [size]
  show 10 + (fs.length + pack.tail.length) = _
  omega

/-- Settles O31: the image that ENCODE forms is the container's own (`containerOf_decoded`). -/
theorem encodeOfDecodeIsByteIdentity : Obligations.EncodeOfDecodeIsByteIdentity := by
  unfold Obligations.EncodeOfDecodeIsByteIdentity
  intro b pack cfg dst s s' hr h identity bound hb hw
  obtain ⟨ok, -⟩ := decodesTo_cases hr h
  obtain ⟨size, ten, frames, valid, -⟩ := decodesTo_image hr h
  have length := decodesTo_length hr h valid
  have := pack.size.isLt
  obtain ⟨t, run, frame, sink, -⟩ := exec_encode_writes (pack := packOperand pack) (dst := dst) hb ten
    (identityCfg_legal identity) valid (by omega) (fun hwb => by rw [length]; exact bound hwb) hw
  refine ⟨t, run, by rw [frame]; rfl, ?_⟩
  rw [sink, containerOf_decoded hr h identity valid, size, take_container ok]

end Sys2Proof.Machine

namespace Sys2Proof.Machine

/-! Two walks over the same image (R81) -/

/-- Two walks that stand at the same place of the same image with the same registers. What END_ADDR holds before a walk
has set it is no part of this. -/
structure SameWalk (s s' : State) : Prop where
  image : ∀ a, imgByte s' a = imgByte s a
  wstate : s'.wstate = s.wstate
  cur : s'.cur = s.cur
  size : s'.size = s.size
  nShort : s'.nShort = s.nShort
  nLong : s'.nLong = s.nLong
  nBad : s'.nBad = s.nBad
  hdr : s'.hdr = s.hdr
  diag : s'.diag = s.diag
  reg : s'.reg = s.reg
  recs : s'.recs = s.recs
  endValid : s'.endValid = s.endValid
  endAddr : s.endValid = true → s'.endAddr = s.endAddr

/-- Where the first answers a next state, so does the second, and the walks are the same there. -/
def SameAnswer (x y : Answer) : Prop := ∀ t, x = .next t → ∃ t', y = .next t' ∧ SameWalk t t'

theorem sameAnswer_next {t t' : State} (h : SameWalk t t') : SameAnswer (.next t) (.next t') := by
  rintro _ ⟨⟩
  exact ⟨t', rfl, h⟩

theorem sameAnswer_orFault {α : Type} {x y : Except Fault α} {k k' : α → Answer} (same : y = x)
    (h : ∀ v, SameAnswer (k v) (k' v)) : SameAnswer (orFault x k) (orFault y k') := by
  rw [same]
  intro t ht
  obtain ⟨v, rfl, hv⟩ := orFault_next.1 ht
  exact h v t hv

theorem sameAnswer_ite {c c' : Prop} [Decidable c] [Decidable c'] {x y x' y' : Answer} (same : c' ↔ c)
    (hx : SameAnswer x x') (hy : SameAnswer y y') : SameAnswer (if c then x else y) (if c' then x' else y') := by
  by_cases hc : c
  · rw [if_pos hc, if_pos (same.2 hc)]
    exact hx
  · rw [if_neg hc, if_neg (fun h => hc (same.1 h))]
    exact hy

section
variable {s s' : State} (same : SameWalk s s')
include same

theorem SameWalk.walkSizeMismatch_same : SameWalk (walkSizeMismatch s) (walkSizeMismatch s') :=
  { same with wstate := rfl, diag := congrArg (· ||| diagSizeMismatch) same.diag }

theorem SameWalk.walkTrunc_same : SameWalk (walkTrunc s) (walkTrunc s') :=
  { same with wstate := rfl, diag := congrArg (· ||| diagWalkTrunc) same.diag }

theorem SameWalk.walkEnd_same : SameWalk (walkEnd s) (walkEnd s') :=
  { same with wstate := rfl, endValid := rfl, endAddr := fun _ => same.cur }

theorem SameWalk.fits (n : Nat) : frameFits n s' = true ↔ frameFits n s = true := by
  rw [frameFits_iff, frameFits_iff, same.cur, same.size]

theorem SameWalk.walkBad_same (lead : Byte) : SameWalk (walkBad lead s) (walkBad lead s') := by
  by_cases fits : s.cur.toNat + 2 ≤ s.size.toNat
  · rw [walkBad_fits fits, walkBad_fits (by rw [same.cur, same.size]; exact fits)]
    exact { same with
      cur := by rw [same.cur]
      nBad := by rw [same.nBad]
      recs := by rw [same.recs, badEntry, badEntry, same.cur] }
  · rw [walkBad_trunc (by omega), walkBad_trunc (by rw [same.cur, same.size]; omega)]
    exact same.walkTrunc_same

theorem SameWalk.appendLong_same (lead : Byte) (len : BitVec 16) (q : List Byte) :
    SameWalk (appendLong lead len q s) (appendLong lead len q s') :=
  { same with
    cur := by rw [appendLong_cur, appendLong_cur, same.cur]
    nLong := by rw [appendLong_nLong, appendLong_nLong, same.nLong]
    recs := by rw [appendLong_recs, appendLong_recs, same.recs, longEntry, longEntry, same.cur] }

theorem SameWalk.walkLong_same (lead : Byte) (len : BitVec 16) : SameAnswer (walkLong lead len s) (walkLong lead len s') :=
  sameAnswer_ite (same.fits _)
    (sameAnswer_orFault (by rw [same.cur, imgBytes_congr same.image])
      fun q => sameAnswer_next (same.appendLong_same lead len q))
    (sameAnswer_next same.walkTrunc_same)

/-- The registry and DIAG after a SHORT frame come from REG, DIAG and CUR. -/
theorem SameWalk.shortEffect_same (p : Params) (k : Kind) (type : Byte) (q : List Byte) :
    (shortEffect p k type q s').reg = (shortEffect p k type q s).reg ∧
      (shortEffect p k type q s').diag = (shortEffect p k type q s).diag := by
  cases k with
  | dfdecl =>
    simp only [shortEffect]
    cases declOf q with
    | none => exact ⟨same.reg, same.diag⟩
    | some d =>
      simp only
      split
      · exact ⟨by rw [registryAppend_reg, registryAppend_reg, same.reg, same.cur], same.diag⟩
      · exact ⟨same.reg, same.diag⟩
  | data =>
    simp only [shortEffect, same.reg]
    cases ownerOf s.reg (dfId p type) with
    | found d => exact ⟨same.reg, same.diag⟩
    | notFound => exact ⟨same.reg, congrArg (· ||| diagIdNotFound) same.diag⟩
  | diary | opl | comms | sheet | pager | notes | unknown => exact ⟨same.reg, same.diag⟩

theorem SameWalk.shortEntryOf_same (p : Params) (k : Kind) (len type : Byte) (q : List Byte) :
    shortEntryOf p k len type q s' = shortEntryOf p k len type q s := by
  cases k <;> simp only [shortEntryOf, shortEntry, same.cur, same.reg]

theorem SameWalk.appendShort_same (p : Params) (k : Kind) (len type : Byte) (q : List Byte) :
    SameWalk (appendShort p k len type q s) (appendShort p k len type q s') := by
  obtain ⟨reg, diag⟩ := same.shortEffect_same p k type q
  rw [appendShort, appendShort, shortEffect_frame, shortEffect_frame _ _ _ _ s']
  exact { same with
    cur := by rw [same.cur]
    nShort := by rw [same.nShort]
    recs := by rw [same.recs, same.shortEntryOf_same]
    reg := reg
    diag := diag }

theorem SameWalk.walkShort_same (p : Params) (k : Kind) (len type : Byte) :
    SameAnswer (walkShort p k len type s) (walkShort p k len type s') :=
  sameAnswer_ite (same.fits _)
    (sameAnswer_orFault (by rw [same.cur, imgBytes_congr same.image])
      fun q => sameAnswer_next (same.appendShort_same p k len type q))
    (sameAnswer_next same.walkTrunc_same)

theorem SameWalk.walkFrame_same (p : Params) : SameAnswer (walkFrame p s) (walkFrame p s') := by
  refine sameAnswer_orFault (by rw [same.image, same.cur]) fun b0 =>
    sameAnswer_ite Iff.rfl (sameAnswer_next same.walkEnd_same)
      (sameAnswer_ite (same.fits 2) (sameAnswer_orFault (by rw [same.image, same.cur]) fun b1 => ?_)
        (sameAnswer_next same.walkTrunc_same))
  cases classify b0 b1 with
  | endF => exact sameAnswer_next same.walkEnd_same
  | bad => exact sameAnswer_next (same.walkBad_same b0)
  | long =>
    exact sameAnswer_ite (same.fits 4)
      (sameAnswer_orFault (by rw [same.image, same.cur]) fun x =>
        sameAnswer_orFault (by rw [same.image, same.cur]) fun y => same.walkLong_same b0 (be16 x y))
      (sameAnswer_next same.walkTrunc_same)
  | short => exact same.walkShort_same p _ b0 b1

/-- Two walks over the same image take the same step. -/
theorem SameWalk.step_same (w : Walking s) (w' : Walking s') (hw : s.wstate = .wRecords) :
    SameAnswer (step s) (step s') := by
  have hw' : s'.wstate = .wRecords := same.wstate.trans hw
  rw [w.step_walk hw, w'.step_walk hw']
  by_cases atSize : s.cur.toNat = s.size.toNat
  · rw [atFrame_size hw atSize, atFrame_size hw' (by rw [same.cur, same.size]; exact atSize)]
    exact sameAnswer_next same.walkSizeMismatch_same
  · have high := w.high
    rw [atFrame_runs hw (by omega), atFrame_runs hw' (by rw [same.cur, same.size]; omega)]
    exact same.walkFrame_same _

/-- At a terminal the two walks give the same DecodedPack. -/
theorem SameWalk.decodedPack_same (w : Walking s) (p : Params) (tail : List Byte) :
    decodedPack p (if s'.wstate = .wEnd then some s'.endAddr else none) tail s' =
      decodedPack p (if s.wstate = .wEnd then some s.endAddr else none) tail s := by
  have ended : (if s'.wstate = .wEnd then some s'.endAddr else none) =
      if s.wstate = .wEnd then some s.endAddr else none := by
    rw [same.wstate]
    by_cases hw : s.wstate = .wEnd
    · rw [if_pos hw, if_pos hw, same.endAddr (w.ended hw)]
    · rw [if_neg hw, if_neg hw]
  have header := parseHeader_pure p (h := s.hdr) (by rw [w.ten]; decide) s' s
  rw [ended]
  simp only [decodedPack, same.hdr, header, same.size, same.recs, same.reg, same.nShort, same.nLong,
    same.nBad, same.wstate, same.diag]

end

/-- The run of the second walk is so far along that it has come to a walk that is the same as `u`. -/
def Reaches (start u : State) : Prop :=
  ∃ m u', (∀ n, runBusy (m + n) start = runBusy n u') ∧ Walking u' ∧ SameWalk u u'

/-- A walk over the same image ends with the same answer. -/
theorem SameWalk.same_result {s s' : State} (same : SameWalk s s') (w : Walking s) (w' : Walking s') {n : Nat} {t : State}
    {pack : DecodedPack} (run : runBusy n s = .next t) (hb : t.busy = false) (hres : t.hrsp.result = .decoded pack) :
    ∃ m t', runBusy m s' = .next t' ∧ t'.busy = false ∧ t'.status = statusCode .ok ∧ t'.hrsp.result = .decoded pack := by
  have start : Reaches s' s := ⟨0, s', fun n => by rw [Nat.zero_add], w', same⟩
  have keeps : ∀ a b, Walking a → a.wstate = .wRecords → Reaches s' a → step a = .next b → Reaches s' b := by
    rintro a b wa ha ⟨m, a', hrun, wa', hsame⟩ hab
    obtain ⟨b', hb', hsame'⟩ := hsame.step_same wa wa' ha b hab
    refine ⟨m + 1, b', fun n => ?_, wa'.next (hsame.wstate.trans ha) hb', hsame'⟩
    rw [Nat.add_assoc, hrun, Nat.add_comm 1, Tests.runBusy_step wa'.busy hb']
  obtain ⟨u, wu, stopped, ⟨m, u', hrun, wu', hsame⟩, hu⟩ := w.run_induction keeps start run hb
  obtain ⟨tail, htail, hstep⟩ := wu.result stopped
  obtain rfl := Host.Outcome.next.inj (hstep.symm.trans hu)
  obtain rfl := Result.decoded.inj hres
  obtain ⟨tail', htail', hstep'⟩ := wu'.result (by rw [hsame.wstate]; exact stopped)
  rw [hsame.cur, hsame.size, imgBytes_congr hsame.image, htail] at htail'
  obtain rfl := Except.ok.inj htail'
  refine ⟨m + 1, _, (hrun 1).trans ((Tests.runBusy_step wu'.busy hstep').trans (runBusy_done rfl 0)), rfl, rfl, ?_⟩
  exact congrArg Result.decoded (hsame.decodedPack_same wu Config.params tail)

theorem accepted_imgByte (src : List Byte) (s : State) (a : Nat) :
    imgByte (accepted src s) a =
      if a < (containerSize src).toNat then srcByte (Memory.ofBytes src) (6 + a) else .error .imageOutOfRange := rfl

theorem srcByte_ofBytes_congr {src src' : List Byte} {i : Nat} (same : src'[i]? = src[i]?) :
    srcByte (Memory.ofBytes src') i = srcByte (Memory.ofBytes src) i := by
  rw [srcByte, srcByte, read_ofBytes, read_ofBytes, same]

/-- DECODE depends on the size field and the image below SIZE, and on no register (R81). -/
theorem decodesTo_congr {s s' : State} {src src' : List Byte} {pack : DecodedPack} (hr : ready s = true)
    (hr' : ready s' = true) (ok' : acceptable src' = true) (size : containerSize src' = containerSize src)
    (image : (src'.drop 6).take (containerSize src).toNat = (src.drop 6).take (containerSize src).toNat)
    (h : decodesTo s src pack) : decodesTo s' src' pack := by
  obtain ⟨ok, hdr, u, n, t, hi, hu, w, e, run, hb, hres⟩ := decodesTo_cases hr h
  have bytes (a : Nat) : imgByte (accepted src' s') a = imgByte (accepted src s) a := by
    rw [accepted_imgByte, accepted_imgByte, size]
    by_cases below : a < (containerSize src).toNat
    · have at_a := congrArg (·[a]?) image
      simp only [List.getElem?_take, List.getElem?_drop, if_pos below] at at_a
      rw [srcByte_ofBytes_congr at_a]
    · rw [if_neg below, if_neg below]
  have d' := accepted_decoding hr' ok'
  obtain ⟨hdr', u', hi', hu', w', e'⟩ := d'.header_next rfl
  rw [imgBytes_congr bytes, hi] at hi'
  obtain rfl := Except.ok.inj hi'
  have same : SameWalk u u' := by
    rw [e, e']
    exact
      { image := fun a => (imgByte_congr (s := accepted src' s') rfl rfl a).trans
          ((bytes a).trans (imgByte_congr (s := accepted src s) rfl rfl a).symm)
        wstate := rfl, cur := rfl, size := size, nShort := rfl, nLong := rfl, nBad := rfl, hdr := rfl, diag := rfl,
        reg := rfl, recs := rfl, endValid := rfl, endAddr := nofun }
  obtain ⟨m, t', run', hb', hstatus, hres'⟩ := same.same_result w w' run hb hres
  exact ⟨accepted src' s', m + 1, t', exec_decode_acceptable ((ready_iff s').1 hr').1 ok',
    (Tests.runBusy_step d'.busy hu').trans run', hb', hstatus, hres'⟩

/-- Settles O33: `decodesTo_congr` with one container. -/
theorem decodeIsPure : Obligations.DecodeIsPure := by
  unfold Obligations.DecodeIsPure
  intro src pack s s' hr hr' h
  exact decodesTo_congr hr hr' (decodesTo_cases hr h).1 rfl rfl h

/-- A container cut after its image is acceptable, with the same size field and image. -/
theorem acceptable_take {b : List Byte} (ok : acceptable b = true) :
    acceptable (b.take (6 + (containerSize b).toNat)) = true ∧
      containerSize (b.take (6 + (containerSize b).toNat)) = containerSize b ∧
      ((b.take (6 + (containerSize b).toNat)).drop 6).take (containerSize b).toNat =
        (b.drop 6).take (containerSize b).toNat := by
  obtain ⟨hm, six, ten, fits⟩ := (acceptable_iff b).1 ok
  generalize hn : (containerSize b).toNat = n at *
  have field : containerSize (b.take (6 + n)) = containerSize b := by
    simp only [containerSize, List.getD_eq_getElem?_getD, List.getElem?_take]
    rw [if_pos (by omega), if_pos (by omega), if_pos (by omega)]
  refine ⟨(acceptable_iff _).2 ⟨?_, ?_, ?_, ?_⟩, field, ?_⟩
  · rw [List.take_take, Nat.min_eq_left (by omega), hm]
  · rw [List.length_take]
    omega
  · rw [field, hn]
    exact ten
  · rw [field, hn, List.length_take]
    omega
  · rw [List.drop_take, List.take_take]
    congr 1
    omega

/-- Settles O32: ENCODE wrote the container without its surplus (`containerOf_decoded`), and DECODE does not read the
surplus (`decodesTo_congr`). -/
theorem decodeEncodeRoundTrip : Obligations.DecodeEncodeRoundTrip := by
  unfold Obligations.DecodeEncodeRoundTrip
  intro b pack cfg dst s s' t s'' hr h identity hb hw hexec hstatus hr''
  obtain ⟨ok, -⟩ := decodesTo_cases hr h
  obtain ⟨size, ten, frames, valid, -⟩ := decodesTo_image hr h
  have legal := identityCfg_legal identity
  have length := decodesTo_length hr h valid
  have := pack.size.isLt
  by_cases bound : cfgHwBound cfg = true → 10 + (frames.length + (packOperand pack).tail.length) ≤ 0xFFFF
  · obtain ⟨t', run, -, sink, -⟩ := exec_encode_writes (pack := packOperand pack) (dst := dst) hb ten legal valid
      (by omega) bound hw
    obtain rfl := Host.Outcome.next.inj (run.symm.trans hexec)
    rw [sink, containerOf_decoded hr h identity valid, ← take_container ok]
    obtain ⟨ok', size', image'⟩ := acceptable_take ok
    exact decodesTo_congr hr hr'' ok' size' image' h
  · rw [Classical.not_imp, Nat.not_le] at bound
    rw [exec_encode hb ten legal, encodeBody_sizeError valid ten (.inr bound), raiseAbort_other (by decide)] at hexec
    obtain rfl := Host.Outcome.next.inj hexec
    exact absurd hstatus (by simp only; decide)

/-! The other codec commands (R81) -/

theorem raiseAbort_hrsp {c : Status} (s : State) :
    (raiseAbort c s).hrsp = { status := statusCode c, diag := s.diag, result := .none } := by
  by_cases h : c = .channelError
  · rw [h]
    rfl
  · rw [raiseAbort_other h]

theorem parseHeader_diag (p : Params) (h : List Byte) (s : State) : (parseHeader p h s).1.diag = s.diag := by
  rw [parseHeader_frame]

theorem patchHeader_diag (h : List Byte) (cfg : BitVec 40) (s : State) : (patchHeader h cfg s).1.diag = s.diag := by
  rw [patchHeader_frame]

/-- A command's answer depends on its operands only, if its body's does. -/
theorem hostCommand_pure {formed ok : Bool} {body : State → Answer} {s s' t t' : State} (hb : s.busy = false)
    (hb' : s'.busy = false)
    (pure : formed = true → ∀ u u', body (accept s) = .next u → body (accept s') = .next u' → u.hrsp = u'.hrsp)
    (h : hostCommand true formed ok body s = .next t) (h' : hostCommand true formed ok body s' = .next t') :
    t.hrsp = t'.hrsp := by
  by_cases form : formed = true
  · by_cases config : ok = true
    · rw [hostCommand_runs hb rfl form config] at h
      rw [hostCommand_runs hb' rfl form config] at h'
      exact pure form t t' h h'
    · rw [hostCommand_badConfig hb rfl form (by simpa using config)] at h
      rw [hostCommand_badConfig hb' rfl form (by simpa using config)] at h'
      obtain rfl := Host.Outcome.next.inj h
      obtain rfl := Host.Outcome.next.inj h'
      rfl
  · rw [hostCommand_badCommand hb (.inr (by simpa using form))] at h
    rw [hostCommand_badCommand hb' (.inr (by simpa using form))] at h'
    obtain rfl := Host.Outcome.next.inj h
    obtain rfl := Host.Outcome.next.inj h'
    rfl

theorem encodeBody_pure {pack : PackOperand} (ten : pack.hdr.length = 10) {cfg : BitVec 40} {dst : Nat}
    {s s' u u' : State} (h : encodeBody pack cfg dst (accept s) = .next u)
    (h' : encodeBody pack cfg dst (accept s') = .next u') : u.hrsp = u'.hrsp := by
  have diag (x : State) : (patchHeader pack.hdr cfg (encodeInit cfg dst (accept x))).1.diag = 0 :=
    patchHeader_diag _ _ _
  cases valid : packBytes pack.recs with
  | none =>
    rw [encodeBody_invalid valid] at h h'
    obtain rfl := Host.Outcome.next.inj h
    obtain rfl := Host.Outcome.next.inj h'
    rw [raiseAbort_hrsp, raiseAbort_hrsp]
    rfl
  | some frames =>
    by_cases large : 0xFFFFFF < 10 + (frames.length + pack.tail.length) ∨
        cfgHwBound cfg = true ∧ 0xFFFF < 10 + (frames.length + pack.tail.length)
    · rw [encodeBody_sizeError valid ten large] at h h'
      obtain rfl := Host.Outcome.next.inj h
      obtain rfl := Host.Outcome.next.inj h'
      rw [raiseAbort_hrsp, raiseAbort_hrsp, diag, diag]
    · rw [not_or, not_and, Nat.not_lt, Nat.not_lt] at large
      rw [encodeBody_writes valid ten large.1 large.2] at h h'
      obtain rfl := Host.Outcome.next.inj h
      obtain rfl := Host.Outcome.next.inj h'
      rw [finish_hrsp, finish_hrsp]
      simp only [appendSink, setSink_diag, diag]

/-- Settles O34: each body's result data is a function of the operands. -/
theorem codecAnswersArePure : Obligations.CodecAnswersArePure := by
  unfold Obligations.CodecAnswersArePure
  intro i s s' t t' codec notDecode hb hb' h h'
  cases i with
  | decode src => exact absurd rfl (notDecode src)
  | encode pack cfg dst => exact hostCommand_pure hb hb' (fun ten _ _ => encodeBody_pure (by simpa using ten)) h h'
  | frameEnc d dst =>
    refine hostCommand_pure hb hb' (fun _ u u' hu hu' => ?_) h h'
    unfold frameEncBody at hu hu'
    cases valid : frameBytes d with
    | none =>
      rw [valid] at hu hu'
      obtain rfl := Host.Outcome.next.inj hu
      obtain rfl := Host.Outcome.next.inj hu'
      rw [raiseAbort_hrsp, raiseAbort_hrsp]
      rfl
    | some out =>
      rw [valid] at hu hu'
      obtain rfl := Host.Outcome.next.inj hu
      obtain rfl := Host.Outcome.next.inj hu'
      rfl
  | frameClassify bytes =>
    refine hostCommand_pure hb hb' (fun _ u u' hu hu' => ?_) h h'
    obtain rfl := Host.Outcome.next.inj hu
    obtain rfl := Host.Outcome.next.inj hu'
    rfl
  | hdrParse hdr =>
    refine hostCommand_pure hb hb' (fun ten u u' hu hu' => ?_) h h'
    have eight : 8 ≤ hdr.length := by rw [beq_iff_eq] at ten; omega
    obtain rfl := Host.Outcome.next.inj hu
    obtain rfl := Host.Outcome.next.inj hu'
    rw [finish_hrsp, finish_hrsp, parseHeader_diag, parseHeader_diag, parseHeader_pure _ eight _ (accept s')]
    rfl
  | csum hdr =>
    refine hostCommand_pure hb hb' (fun eight u u' hu hu' => ?_) h h'
    have eight : 8 ≤ hdr.length := by rw [beq_iff_eq] at eight; omega
    obtain rfl := Host.Outcome.next.inj hu
    obtain rfl := Host.Outcome.next.inj hu'
    rw [csumBytes_checksum eight, csumBytes_checksum eight]
    rfl
  | csumCheck hdr =>
    refine hostCommand_pure hb hb' (fun ten u u' hu hu' => ?_) h h'
    have eight : 8 ≤ hdr.length := by rw [beq_iff_eq] at ten; omega
    obtain rfl := Host.Outcome.next.inj hu
    obtain rfl := Host.Outcome.next.inj hu'
    rw [checkHeader_eq _ eight, checkHeader_eq _ eight]
    split <;> rfl
  | hdrPatch hdr cfg =>
    refine hostCommand_pure hb hb' (fun ten u u' hu hu' => ?_) h h'
    obtain rfl := Host.Outcome.next.inj hu
    obtain rfl := Host.Outcome.next.inj hu'
    rw [finish_hrsp, finish_hrsp, patchHeader_diag, patchHeader_diag,
      patchHeader_pure (by simpa using ten) cfg _ { accept s' with cfg := cfg }]
    rfl
  | _ => cases codec

end Sys2Proof.Machine

namespace Sys2Proof.Machine

/-! A frame that FRAME_ENC accepts, read back (R189) -/

theorem frameBytes_bad_some {lead : Byte} {f : List Byte} (h : frameBytes (.bad lead) = some f) :
    lead ≠ 0xFF#8 ∧ f = [lead, 0xFF] := by
  rw [frameBytes] at h
  split at h
  · cases h
  · exact ⟨‹_›, (Option.some.inj h).symm⟩

theorem frameBytes_long_some {lead : Byte} {q f : List Byte} (h : frameBytes (.long lead q) = some f) :
    lead ≠ 0xFF#8 ∧ ∃ x y : Byte, (be16 x y).toNat = q.length ∧ f = lead :: 0x80#8 :: x :: y :: q := by
  rw [frameBytes] at h
  split at h
  · cases h
  next accepted =>
    rw [not_or, Nat.not_lt] at accepted
    refine ⟨accepted.1, _, _, ?_, (Option.some.inj h).symm⟩
    rw [be16_hi8_lo8, BitVec.toNat_ofNat, Nat.mod_eq_of_lt (by omega)]

theorem frameBytes_short_some {type : Byte} {q f : List Byte} (h : frameBytes (.short type q) = some f) :
    type ≠ 0xFF#8 ∧ type ≠ 0x80#8 ∧ ∃ b0 : Byte, b0 ≠ 0xFF#8 ∧ b0.toNat = q.length ∧ f = b0 :: type :: q := by
  rw [frameBytes] at h
  split at h
  · cases h
  next accepted =>
    rw [not_or, not_or, Nat.not_lt] at accepted
    obtain ⟨small, notLong, notBad⟩ := accepted
    have len : (BitVec.ofNat 8 q.length).toNat = q.length := by rw [BitVec.toNat_ofNat, Nat.mod_eq_of_lt (by omega)]
    refine ⟨notBad, notLong, _, fun e => ?_, len, (Option.some.inj h).symm⟩
    rw [e] at len
    have : (0xFF#8).toNat = 255 := rfl
    omega

/-- A LONG frame is the longest. -/
theorem frameBytes_length_le {d : FrameDesc} {f : List Byte} (h : frameBytes d = some f) : f.length ≤ 0xFFFF + 4 := by
  cases d with
  | endF =>
    cases h
    decide
  | bad lead =>
    obtain ⟨-, rfl⟩ := frameBytes_bad_some h
    exact Nat.le_add_left 2 _
  | long lead q =>
    obtain ⟨-, x, y, len, rfl⟩ := frameBytes_long_some h
    have := (be16 x y).isLt
    simp only [List.length_cons]
    omega
  | short type q =>
    obtain ⟨-, -, b0, -, len, rfl⟩ := frameBytes_short_some h
    have := b0.isLt
    simp only [List.length_cons]
    omega

/-- FRAME_CLASSIFY of the frame answers the class, the lead or type, the length and the extent. -/
theorem classifyBytes_frame (p : Params) {d : FrameDesc} {f : List Byte} (h : frameBytes d = some f) :
    match d with
    | .endF => classifyBytes p f = .endF f.length
    | .bad lead => classifyBytes p f = .bad lead 0 f.length
    | .long lead q => classifyBytes p f = .long lead q.length f.length
    | .short type q => ∃ i, classifyBytes p f = .short i ∧ i.type = type ∧ i.len = q.length ∧ i.size = f.length := by
  cases d with
  | endF =>
    cases h
    rfl
  | bad lead =>
    obtain ⟨notEnd, rfl⟩ := frameBytes_bad_some h
    exact classifyBytes_bad p notEnd []
  | long lead q =>
    obtain ⟨notEnd, x, y, len, rfl⟩ := frameBytes_long_some h
    show classifyBytes p _ = _
    rw [classifyBytes_long p notEnd, len]
    rfl
  | short type q =>
    obtain ⟨notBad, notLong, b0, notEnd, len, rfl⟩ := frameBytes_short_some h
    refine ⟨_, classifyBytes_short p notEnd notBad notLong q, rfl, len, ?_⟩
    simp only [len, List.length_cons]

/-- WALK_STEP at an accepted frame other than END appends the entry that describes it. -/
theorem walkStep_frame_forward {p : Params} {s : State} {d : FrameDesc} {f : List Byte} (hw : s.wstate = .wRecords)
    (h : frameBytes d = some f) (notEndF : d ≠ .endF) (image : imgBytes s s.cur.toNat f.length = .ok f)
    (fits : s.cur.toNat + f.length ≤ s.size.toNat) :
    ∃ t e, atFrame (walkFrame p) s = .next t ∧ descriptor e = d ∧ t.wstate = .wRecords ∧ t.recs = s.recs ++ [e] ∧
      t.cur = BitVec.ofNat 25 (s.cur.toNat + f.length) := by
  cases d with
  | endF => exact absurd rfl notEndF
  | bad lead =>
    obtain ⟨notEnd, rfl⟩ := frameBytes_bad_some h
    obtain ⟨h0, image⟩ := imgBytes_cons_iff.1 image
    obtain ⟨h1, -⟩ := imgBytes_cons_iff.1 image
    refine ⟨_, badEntry lead s, (atFrame_runs hw (imgByte_lt h0)).trans (walkFrame_bad h0 notEnd h1), rfl, ?_⟩
    rw [walkBad_fits fits]
    exact ⟨hw, rfl, rfl⟩
  | long lead q =>
    obtain ⟨notEnd, x, y, len, rfl⟩ := frameBytes_long_some h
    obtain ⟨h0, image⟩ := imgBytes_cons_iff.1 image
    obtain ⟨h1, image⟩ := imgBytes_cons_iff.1 image
    obtain ⟨hx, image⟩ := imgBytes_cons_iff.1 image
    obtain ⟨hy, image⟩ := imgBytes_cons_iff.1 image
    simp only [List.length_cons] at fits
    have run : walkLong lead (be16 x y) s = .next (appendLong lead (be16 x y) q s) :=
      walkLong_fits (by omega) (by rw [len]; exact image)
    refine ⟨_, longEntry lead (be16 x y) q s,
      (atFrame_runs hw (imgByte_lt h0)).trans ((walkFrame_long h0 notEnd h1 hx hy).trans run), rfl, hw, rfl, ?_⟩
    rw [appendLong_cur, len, Nat.add_assoc, Nat.add_comm 4]
    rfl
  | short type q =>
    obtain ⟨notBad, notLong, b0, notEnd, len, rfl⟩ := frameBytes_short_some h
    obtain ⟨h0, image⟩ := imgBytes_cons_iff.1 image
    obtain ⟨h1, image⟩ := imgBytes_cons_iff.1 image
    simp only [List.length_cons] at fits
    have run : walkShort p (kindOf type b0.toNat) b0 type s =
        .next (appendShort p (kindOf type b0.toNat) b0 type q s) :=
      walkShort_fits (by omega) (by rw [len]; exact image)
    refine ⟨_, shortEntryOf p (kindOf type b0.toNat) b0 type q s,
      (atFrame_runs hw (imgByte_lt h0)).trans ((walkFrame_short h0 notEnd h1 notBad notLong).trans run), ?_, ?_, rfl, ?_⟩
    · rw [shortEntryOf_frame]
      rfl
    · rw [appendShort, shortEffect_frame]
      exact hw
    · show BitVec.ofNat 25 (s.cur.toNat + 2 + b0.toNat) = _
      rw [len, Nat.add_assoc, Nat.add_comm 2]
      rfl

/-- The container of an image of this many bytes is acceptable, and its image is those bytes. -/
theorem containerSize_containerOf (img : List Byte) : containerSize (containerOf img) = BitVec.ofNat 24 img.length :=
  be24_bytes24 _

theorem acceptable_containerOf {img : List Byte} (ten : 10 ≤ img.length) (small : img.length < 2 ^ 24) :
    acceptable (containerOf img) = true ∧ (containerSize (containerOf img)).toNat = img.length := by
  have size : (containerSize (containerOf img)).toNat = img.length := by
    rw [containerSize_containerOf, BitVec.toNat_ofNat, Nat.mod_eq_of_lt small]
  refine ⟨(acceptable_iff _).2 ⟨rfl, ?_, ?_, ?_⟩, size⟩
  · rw [containerOf_length]
    omega
  · rw [size]
    exact ten
  · rw [size, containerOf_length]

theorem accepted_image {img : List Byte} (ten : 10 ≤ img.length) (small : img.length < 2 ^ 24) {s : State}
    (hr : ready s = true) {a n : Nat} (below : a + n ≤ img.length) :
    imgBytes (accepted (containerOf img) s) a n = .ok ((img.drop a).take n) := by
  obtain ⟨ok, size⟩ := acceptable_containerOf ten small
  have bytes : Memory.bytes (accepted (containerOf img) s).src = containerOf img := bytes_ofBytes _
  have image : (containerOf img).drop (6 + a) = img.drop a := by
    rw [← List.drop_drop]
    rfl
  have h := (accepted_decoding hr ok).image (a := a) (n := n) (show a + n ≤ (containerSize (containerOf img)).toNat by omega)
  rw [h, bytes, image]

/-- The walk ends at a sentinel: END_ADDR is CUR, and the result step answers the records so far. -/
theorem Walking.ends_at_sentinel {s : State} (w : Walking s) (hw : s.wstate = .wRecords)
    (sentinel : imgByte s s.cur.toNat = .ok 0xFF#8) :
    ∃ t pack, runBusy 2 s = .next t ∧ t.busy = false ∧ t.status = statusCode .ok ∧ t.hrsp.result = .decoded pack ∧
      pack.terminal = .wEnd ∧ pack.recs = s.recs ∧ pack.endAddr = some s.cur := by
  have ends : step s = .next (walkEnd s) := by
    rw [w.step_walk hw, atFrame_runs hw (imgByte_lt sentinel), walkFrame_end sentinel]
  obtain ⟨tail, -, result⟩ := (w.next hw ends).result (by rw [walkEnd_wstate]; decide)
  exact ⟨_, _, (Tests.runBusy_step w.busy ends).trans (Tests.runBusy_step (w.next hw ends).busy result), rfl, rfl, rfl,
    rfl, rfl, rfl⟩

/-- DECODE of a header, an accepted frame and a sentinel. -/
theorem decodesTo_frame {d : FrameDesc} {f h : List Byte} (encoded : frameBytes d = some f) (ten : h.length = 10)
    {s : State} (hr : ready s = true) :
    ∃ pack, decodesTo s (containerOf (h ++ f ++ [0xFF#8])) pack ∧ pack.terminal = .wEnd ∧
      pack.recs.map descriptor = (if d = .endF then [] else [d]) ∧
      pack.endAddr = some (BitVec.ofNat 25 (if d = .endF then 0x0A else 0x0A + f.length)) := by
  have flen : f.length ≤ 0xFFFF + 4 := frameBytes_length_le encoded
  have length : (h ++ f ++ [0xFF#8]).length = 10 + f.length + 1 := by
    rw [List.length_append, List.length_append, ten, List.length_singleton]
  obtain ⟨ok, size⟩ := acceptable_containerOf (img := h ++ f ++ [0xFF#8]) (by omega) (by omega)
  have image {a n : Nat} := accepted_image (img := h ++ f ++ [0xFF#8]) (by omega) (by omega) hr (a := a) (n := n)
  have d0 := accepted_decoding hr ok
  have hexec := exec_decode_acceptable ((ready_iff s).1 hr).1 ok
  obtain ⟨hdr, u, -, hu, w, e⟩ := d0.header_next rfl
  have hw : u.wstate = .wRecords := by rw [e]
  have recs : u.recs = [] := by rw [e]; rfl
  have cur : u.cur = 0x0A := by rw [e]
  have curNat : u.cur.toNat = 10 := by rw [cur]; rfl
  have imageAt : ∀ a, imgByte u a = imgByte (accepted (containerOf (h ++ f ++ [0xFF#8])) s) a :=
    imgByte_congr (by rw [e]) (by rw [e])
  have frame : imgBytes u u.cur.toNat f.length = .ok f := by
    rw [imgBytes_congr imageAt, curNat, image (by omega), List.append_assoc, ← ten, List.drop_left, List.take_left]
  have sentinel : imgByte u (10 + f.length) = .ok 0xFF#8 := by
    have last : imgBytes u (10 + f.length) 1 = .ok [0xFF#8] := by
      rw [imgBytes_congr imageAt, image (by omega), ← ten, ← List.length_append, List.drop_left]
      rfl
    exact (imgBytes_cons_iff.1 last).1
  by_cases endF : d = .endF
  · subst endF
    cases encoded
    obtain ⟨t, pack, run, hb, status, result, terminal, hrecs, endAddr⟩ :=
      w.ends_at_sentinel hw (imgBytes_cons_iff.1 frame).1
    refine ⟨pack, ⟨_, 3, t, hexec, (Tests.runBusy_step d0.busy hu).trans run, hb, status, result⟩, terminal, ?_, ?_⟩
    · rw [hrecs, recs]
      rfl
    · rw [endAddr, cur]
      rfl
  · have fits : u.cur.toNat + f.length ≤ u.size.toNat := by
      have hsize : u.size = containerSize (containerOf (h ++ f ++ [0xFF#8])) := by rw [e]; rfl
      rw [curNat, hsize]
      omega
    obtain ⟨v, r, hv, described, vw, vrecs, vcur⟩ := walkStep_frame_forward (p := Config.params) hw encoded endF frame fits
    have hstep : step u = .next v := (w.step_walk hw).trans hv
    have vcurNat : v.cur.toNat = 10 + f.length := by rw [vcur, cur_exact fits, curNat]
    obtain ⟨t, pack, run, hb, status, result, terminal, hrecs, endAddr⟩ :=
      (w.next hw hstep).ends_at_sentinel vw (by rw [w.image_eq hw hstep, vcurNat]; exact sentinel)
    refine ⟨pack, ⟨_, 4, t, hexec, (Tests.runBusy_step d0.busy hu).trans ((Tests.runBusy_step w.busy hstep).trans run), hb,
      status, result⟩, terminal, ?_, ?_⟩
    · rw [hrecs, vrecs, recs, if_neg endF, ← described]
      rfl
    · rw [endAddr, vcur, curNat, if_neg endF]

/-- Settles O18: `classifyBytes_frame` and `decodesTo_frame`. -/
theorem frameRoundTrip : Obligations.FrameRoundTrip := by
  unfold Obligations.FrameRoundTrip
  intro d f s encoded hr
  refine ⟨?_, fun h ten => decodesTo_frame encoded ten hr⟩
  have pos := frameBytes_descriptor_pos encoded
  match f, pos with
  | b :: rest, _ =>
    refine ⟨_, exec_frameClassify_cons ((ready_iff s).1 hr).1, ?_⟩
    have h := classifyBytes_frame Config.params encoded
    cases d <;> exact h

end Sys2Proof.Machine

namespace Sys2Proof.Machine

/-! The invariant in parts: what holds in every state of the transfer engine, and what each of its states adds -/

/-- Memories, and the registers that no sequencing state enters into. -/
structure RegsInv (s : State) : Prop where
  srcWf : Memory.wf s.src = true
  sourcesWf : Store.wf s.sources = true
  sinksWf : Store.wf s.sinks = true
  hdrTen : s.hdr.length = 10
  diagReserved : s.diag.extractLsb' 4 4 = 0#4
  statusWritten : ∃ c, statusWritable c = true ∧ s.status = statusCode c
  cfgOk : cfgLegal s.cfg = true
  scfgOk : cfgLegal s.scfg = true

/-- The walk's registers and lists. -/
structure WalkInv (s : State) : Prop where
  container : s.wstate ≠ .wIdle → 10 ≤ s.size.toNat ∧ 6 + s.size.toNat ≤ s.src.length
  endOnly : s.endValid = (s.wstate == .wEnd)
  walkHead : s.wstate.walked = false → s.recs = [] ∧ s.reg = []
  walkBounds : s.wstate.walked = true → 10 ≤ s.cur.toNat ∧ s.cur.toNat ≤ s.size.toNat
  contiguous : s.wstate.walked = true → framesFrom 10 s.recs s.cur.toNat = true
  terminalEnd : s.wstate = .wEnd → s.endAddr = s.cur ∧ s.cur.toNat < s.size.toNat
  terminalSize : s.wstate = .wSize → s.cur.toNat = s.size.toNat
  terminalTrunc : s.wstate = .wTrunc → s.cur.toNat < s.size.toNat
  countShort : s.nShort = countOf .short s.recs
  countLong : s.nLong = countOf .long s.recs
  countBad : s.nBad = countOf .bad s.recs
  recordsWf : ∀ e ∈ s.recs, recordWf e = true
  registryWf : ∀ e ∈ s.reg, e.name.length = 8 ∧ 10 ≤ e.declAddr.toNat ∧ e.declAddr.toNat < s.cur.toNat

/-- The session, BUSY and the line recogniser. -/
structure SessionInv (p : Params) (s : State) : Prop where
  openSession : s.chOpen = (s.xstate != .xClosed)
  srcBound : s.srcBind.isSome = (s.xstate != .xClosed)
  dstBound : s.dstBind.isSome = (s.xstate != .xClosed)
  operationBusy : s.xstate.inOperation = true → s.busy = true
  lineBound : s.linebuf.length ≤ lineMax p
  lineIdle : s.xstate ≠ .xIdle → s.linebuf = [] ∧ s.lineOvf = false
  walkBusy : s.wstate = .wHeader ∨ s.wstate = .wRecords → s.busy = true ∧ s.xstate.inOperation = false
  decodeRuns : s.busy = true → s.xstate.inOperation = false → s.wstate ≠ .wIdle

/-- What holds in every state of the transfer engine. -/
structure Base (p : Params) (s : State) : Prop extends RegsInv s, WalkInv s, SessionInv p s

/-- A write past its check: TSIZE is at most 0xFFFF, and the source holds that many image bytes. -/
def WriteChecked (s : State) : Prop :=
  s.tsize.toNat ≤ 0xFFFF ∧ ∃ r, s.srcBind = some r ∧ 6 + s.tsize.toNat ≤ (Store.get s.sources r).length

/-- The bound sink holds the container's first six bytes and ADDR payload bytes. -/
def Captured (s : State) : Prop :=
  ∃ r, s.dstBind = some r ∧ (sinkOf s r).length = 6 + s.addr.toNat ∧ (Memory.bytes (sinkOf s r)).take 6 = readPrefix

/-- The same with perhaps more bytes, after a retraction. -/
def CapturedAtLeast (s : State) : Prop :=
  ∃ r, s.dstBind = some r ∧ 6 + s.addr.toNat ≤ (sinkOf s r).length ∧ (Memory.bytes (sinkOf s r)).take 6 = readPrefix

/-- What state `x` of the transfer engine adds. The timer is armed in the three await states only. -/
def Phase (p : Params) (x : XState) (s : State) : Prop :=
  match x with
  | .xClosed => s.timer = false
  | .xIdle => s.timer = false
  | .wrCheck => s.timer = false ∧ s.opkind = .write ∧ s.addr = 0
  | .wrDrain => s.timer = false ∧ s.opkind = .write ∧ s.addr = 0 ∧ WriteChecked s ∧ s.drainLeft ≤ s.rxq.length
  | .wrToken =>
    s.timer = false ∧ s.opkind = .write ∧ s.addr = 0 ∧ WriteChecked s ∧ s.tidx.toNat < (writeToken p).length
  | .wrSize => s.timer = false ∧ s.opkind = .write ∧ s.addr = 0 ∧ WriteChecked s ∧ s.tidx.toNat ≤ 1
  | .wrSend => s.timer = false ∧ s.opkind = .write ∧ WriteChecked s ∧ s.addr.toNat < s.tsize.toNat
  | .wrEcho => s.opkind = .write ∧ WriteChecked s ∧ s.addr.toNat < s.tsize.toNat
  | .rdInit => s.timer = false ∧ s.opkind = .read ∧ s.addr = 0 ∧ s.ffrun = 0 ∧ s.rdPending = none
  | .rdSize =>
    s.opkind = .read ∧ (s.addr = 0 ∧ s.ffrun = 0 ∧ s.rdPending = none) ∧
      (s.rdSizeBytes.length = s.tidx.toNat ∧ s.tidx.toNat ≤ 2) ∧ Captured s
  | .rdWait =>
    s.opkind = .read ∧ (s.timer = true → s.rdPending = none) ∧ Captured s ∧ s.ffrun.toNat ≤ s.addr.toNat ∧
      (cfgTermMode s.scfg = true → s.ffrun.toNat < (numFfChk p).toNat) ∧
      (s.timer = true ∨ s.rdPending.isSome = true → stopBefore p s = false ∧ atCeiling s = false)
  | .rdFinish => s.timer = false ∧ s.opkind = .read ∧ CapturedAtLeast s

/-- An armed timer has nothing to take. -/
def Quiet (s : State) : Prop := s.timer = true → s.rxq = [] ∧ s.chErr = false

theorem Inv.base {p : Params} {s : State} (inv : Inv p s) : Base p s := { inv with }

theorem Inv.quiet {p : Params} {s : State} (inv : Inv p s) : Quiet s := fun armed =>
  ⟨(inv.timerWaits armed).1, (inv.timerWaits armed).2.1⟩

/-- The timer is armed in an await state only. -/
theorem Inv.timer_off {p : Params} {s : State} (inv : Inv p s)
    (noWait : s.xstate ≠ .wrEcho ∧ s.xstate ≠ .rdSize ∧ s.xstate ≠ .rdWait) : s.timer = false := by
  rw [← Bool.not_eq_true]
  intro armed
  obtain ⟨-, -, hw | hw | hw⟩ := inv.timerWaits armed
  · exact noWait.1 hw
  · exact noWait.2.1 hw
  · exact noWait.2.2 hw.1

theorem Inv.captured {p : Params} {s : State} (inv : Inv p s) (hx : s.xstate = .rdSize ∨ s.xstate = .rdWait) :
    Captured s := by
  obtain ⟨r, hr, length⟩ := inv.readSink hx
  obtain ⟨r', hr', head⟩ := inv.readHead (hx.imp_right .inl)
  obtain rfl : r = r' := Option.some.inj (hr.symm.trans hr')
  exact ⟨r, hr, length, head⟩

theorem Inv.phase {p : Params} {s : State} (inv : Inv p s) : Phase p s.xstate s := by
  have off := inv.timer_off
  have kindW := inv.writeKind
  have kindR := inv.readKind
  have checked := inv.writeChecked
  have start := inv.writeStart
  have captured := inv.captured
  cases hx : s.xstate <;> rw [hx] at off kindW kindR checked start captured
  case xClosed => exact off (by decide)
  case xIdle => exact off (by decide)
  case wrCheck => exact ⟨off (by decide), kindW rfl, start (by decide)⟩
  case wrDrain => exact ⟨off (by decide), kindW rfl, start (by decide), checked rfl (by decide), inv.drainBound hx⟩
  case wrToken => exact ⟨off (by decide), kindW rfl, start (by decide), checked rfl (by decide), inv.tokenIndex hx⟩
  case wrSize => exact ⟨off (by decide), kindW rfl, start (by decide), checked rfl (by decide), inv.sizeIndex hx⟩
  case wrSend => exact ⟨off (by decide), kindW rfl, checked rfl (by decide), inv.writeAddr (.inl hx)⟩
  case wrEcho => exact ⟨kindW rfl, checked rfl (by decide), inv.writeAddr (.inr hx)⟩
  case rdInit => exact ⟨off (by decide), kindR rfl, inv.readStart (.inl hx)⟩
  case rdSize => exact ⟨kindR rfl, inv.readStart (.inr hx), inv.readSizeIndex hx, captured (by decide)⟩
  case rdWait =>
    refine ⟨kindR rfl, fun armed => ?_, captured (by decide), inv.runBound hx, inv.runSentinel hx, inv.readWaits hx⟩
    obtain ⟨-, -, hw | hw | hw⟩ := inv.timerWaits armed
    · cases hx.symm.trans hw
    · cases hx.symm.trans hw
    · exact hw.2
  case rdFinish =>
    obtain ⟨r, hr, length⟩ := inv.readSurplus hx
    obtain ⟨r', hr', head⟩ := inv.readHead (.inr (.inr hx))
    obtain rfl : r = r' := Option.some.inj (hr.symm.trans hr')
    exact ⟨off (by decide), kindR rfl, r, hr, length, head⟩

/-- The parts make up the invariant. -/
theorem Base.inv {p : Params} {s : State} (b : Base p s) (ph : Phase p s.xstate s) (q : Quiet s) : Inv p s := by
  have at_ {x : XState} (hx : s.xstate = x) : Phase p x s := hx ▸ ph
  exact { b with
    writeKind := fun hw => by
      cases hx : s.xstate <;> rw [hx] at hw <;> cases hw
      case wrCheck | wrDrain | wrToken | wrSize | wrSend =>
        obtain ⟨-, fact, -⟩ := at_ hx
        exact fact
      case wrEcho =>
        obtain ⟨fact, -⟩ := at_ hx
        exact fact
    readKind := fun hr => by
      cases hx : s.xstate <;> rw [hx] at hr <;> cases hr
      case rdInit =>
        obtain ⟨-, fact, -⟩ := at_ hx
        exact fact
      case rdSize | rdWait =>
        obtain ⟨fact, -⟩ := at_ hx
        exact fact
      case rdFinish =>
        obtain ⟨-, fact, -⟩ := at_ hx
        exact fact
    timerWaits := fun armed => by
      refine ⟨(q armed).1, (q armed).2, ?_⟩
      cases hx : s.xstate
      case wrEcho => exact .inl rfl
      case rdSize => exact .inr (.inl rfl)
      case rdWait =>
        obtain ⟨-, noByte, -⟩ := at_ hx
        exact .inr (.inr ⟨rfl, noByte armed⟩)
      case xClosed | xIdle => exact absurd armed (by rw [at_ hx]; decide)
      all_goals
        obtain ⟨off, -⟩ := at_ hx
        exact absurd armed (by rw [off]; decide)
    writeChecked := fun hw notCheck => by
      cases hx : s.xstate <;> rw [hx] at hw notCheck <;> cases hw
      case wrCheck => exact absurd rfl notCheck
      case wrDrain | wrToken | wrSize =>
        obtain ⟨-, -, -, fact, -⟩ := at_ hx
        exact fact
      case wrSend =>
        obtain ⟨-, -, fact, -⟩ := at_ hx
        exact fact
      case wrEcho =>
        obtain ⟨-, fact, -⟩ := at_ hx
        exact fact
    writeAddr := fun h => by
      rcases h with hx | hx
      · obtain ⟨-, -, -, fact⟩ := at_ hx
        exact fact
      · obtain ⟨-, -, fact⟩ := at_ hx
        exact fact
    writeStart := fun h => by
      rcases h with hx | hx | hx | hx
      · obtain ⟨-, -, fact⟩ := at_ hx
        exact fact
      · obtain ⟨-, -, fact, -⟩ := at_ hx
        exact fact
      · obtain ⟨-, -, fact, -⟩ := at_ hx
        exact fact
      · obtain ⟨-, -, fact, -⟩ := at_ hx
        exact fact
    drainBound := fun hx => by
      obtain ⟨-, -, -, -, fact⟩ := at_ hx
      exact fact
    tokenIndex := fun hx => by
      obtain ⟨-, -, -, -, fact⟩ := at_ hx
      exact fact
    sizeIndex := fun hx => by
      obtain ⟨-, -, -, -, fact⟩ := at_ hx
      exact fact
    readSizeIndex := fun hx => by
      obtain ⟨-, -, fact, -⟩ := at_ hx
      exact fact
    readSink := fun h => by
      rcases h with hx | hx
      · obtain ⟨-, -, -, r, hr, length, -⟩ := at_ hx
        exact ⟨r, hr, length⟩
      · obtain ⟨-, -, ⟨r, hr, length, -⟩, -⟩ := at_ hx
        exact ⟨r, hr, length⟩
    readSurplus := fun hx => by
      obtain ⟨-, -, r, hr, length, -⟩ := at_ hx
      exact ⟨r, hr, length⟩
    readHead := fun h => by
      rcases h with hx | hx | hx
      · obtain ⟨-, -, -, r, hr, -, head⟩ := at_ hx
        exact ⟨r, hr, head⟩
      · obtain ⟨-, -, ⟨r, hr, -, head⟩, -⟩ := at_ hx
        exact ⟨r, hr, head⟩
      · obtain ⟨-, -, r, hr, -, head⟩ := at_ hx
        exact ⟨r, hr, head⟩
    readStart := fun h => by
      rcases h with hx | hx
      · obtain ⟨-, -, fact⟩ := at_ hx
        exact fact
      · obtain ⟨-, fact, -⟩ := at_ hx
        exact fact
    runBound := fun hx => by
      obtain ⟨-, -, -, fact, -⟩ := at_ hx
      exact fact
    runSentinel := fun hx => by
      obtain ⟨-, -, -, -, fact, -⟩ := at_ hx
      exact fact
    readWaits := fun hx => by
      obtain ⟨-, -, -, -, -, fact⟩ := at_ hx
      exact fact }

/-! States in which no operation runs -/

theorem Base.inv_of_rest {p : Params} {s : State} (b : Base p s) (rest : s.xstate.inOperation = false)
    (off : s.timer = false) : Inv p s := by
  refine b.inv ?_ fun armed => absurd (off.symm.trans armed) Bool.false_ne_true
  cases hx : s.xstate <;> rw [hx] at rest <;> cases rest
  case xClosed => exact off
  case xIdle => exact off

theorem Inv.timer_rest {p : Params} {s : State} (inv : Inv p s) (rest : s.xstate.inOperation = false) :
    s.timer = false := by
  apply inv.timer_off
  refine ⟨?_, ?_, ?_⟩ <;> intro hx <;> rw [hx] at rest <;> cases rest

/-- Settles O2: at reset no session is open, no walk has started and the lists are empty. -/
theorem resetMeetsInvariant : Obligations.ResetMeetsInvariant := by
  unfold Obligations.ResetMeetsInvariant
  have regs : RegsInv State.reset := ⟨rfl, rfl, rfl, rfl, rfl, ⟨.ok, rfl, rfl⟩, rfl, rfl⟩
  have walk : WalkInv State.reset :=
    ⟨fun h => absurd rfl h, rfl, fun _ => ⟨rfl, rfl⟩, nofun, nofun, nofun, nofun, nofun, rfl, rfl, rfl, nofun, nofun⟩
  have session : SessionInv Config.params State.reset :=
    ⟨rfl, rfl, rfl, nofun, Nat.zero_le _, fun _ => ⟨rfl, rfl⟩, nofun, nofun⟩
  exact Base.inv_of_rest { regs, walk, session with } rfl rfl

end Sys2Proof.Machine

namespace Sys2Proof.Machine

/-! The walk's lists grow by one entry (R28, R181) -/

theorem framesFrom_append_one {a c : Nat} {es : List RecEntry} {e : RecEntry} (h : framesFrom a es c = true)
    (addr : e.addr.toNat = c) : framesFrom a (es ++ [e]) (c + recordSize e) = true := by
  induction es generalizing a with
  | nil =>
    obtain rfl : a = c := by simpa [framesFrom] using h
    simp [framesFrom, addr]
  | cons x xs ih =>
    simp only [framesFrom, Bool.and_eq_true] at h
    simp only [List.cons_append, framesFrom, Bool.and_eq_true]
    exact ⟨h.1, ih h.2⟩

theorem countOf_append_same {cls : RecClass} {e : RecEntry} (h : e.cls = cls) (es : List RecEntry) :
    countOf cls (es ++ [e]) = countOf cls es + 1 := by
  simp [countOf, List.filter_append, h, BitVec.ofNat_add]

theorem countOf_append_other {cls : RecClass} {e : RecEntry} (h : e.cls ≠ cls) (es : List RecEntry) :
    countOf cls (es ++ [e]) = countOf cls es := by
  simp [countOf, List.filter_append, h]

theorem recordSize_pos (e : RecEntry) : 2 ≤ recordSize e := by
  unfold recordSize
  split <;> omega

/-! The entries are formed as R35 says -/

theorem recordWf_bad {lead : Byte} (notEnd : lead ≠ 0xFF#8) (s : State) : recordWf (badEntry lead s) = true := by
  simp [recordWf, badEntry, notEnd]

theorem recordWf_long {lead : Byte} (notEnd : lead ≠ 0xFF#8) {len : BitVec 16} {q : List Byte}
    (hl : q.length = len.toNat) (s : State) : recordWf (longEntry lead len q s) = true := by
  simp [recordWf, longEntry, notEnd, hl]

/-- A frame of kind DFDECL has the nine bytes of a declaration. -/
theorem kindOf_dfdecl {type : Byte} {len : Nat} (h : kindOf type len = .dfdecl) : 9 ≤ len := by
  rw [kindOf] at h
  by_cases decl : typeCode type = 0x81#8
  · rw [decl, kindOfCode_declaration] at h
    split at h
    · assumption
    · cases h
  · rw [kindOfCode_of_ne_declaration decl] at h
    split_ifs at h

theorem recordWf_short {p : Params} {b0 b1 : Byte} {q : List Byte} (notEnd : b0 ≠ 0xFF#8) (notBad : b1 ≠ 0xFF#8)
    (notLong : b1 ≠ 0x80#8) (hl : q.length = b0.toNat) (s : State) :
    recordWf (shortEntryOf p (kindOf b1 b0.toNat) b0 b1 q s) = true := by
  have decl : kindOf b1 b0.toNat = .dfdecl → (declOf q).isSome = true := fun h => by
    rw [declOf_long (by rw [hl]; exact kindOf_dfdecl h)]
    rfl
  have len : (b0.zeroExtend 16).toNat = b0.toNat := BitVec.toNat_setWidth_of_le (by decide)
  cases hk : kindOf b1 b0.toNat <;>
    simp [recordWf, shortEntryOf, shortEntry, notEnd, notBad, notLong, hl, hk, decl] <;> omega

theorem diag_or_reserved {d f : Byte} (hd : d.extractLsb' 4 4 = 0#4) (hf : f.extractLsb' 4 4 = 0#4) :
    (d ||| f).extractLsb' 4 4 = 0#4 := by
  rw [BitVec.extractLsb'_or, hd, hf]
  rfl

section
variable {p : Params} {s t : State}

/-! WALK_STEP keeps the invariant -/

/-- An entry appended at CUR: the lists, the counters and CUR go on together. -/
theorem Base.append_record (b : Base p s) (hw : s.wstate = .wRecords) {e : RecEntry}
    (frame : t = { s with
      cur := t.cur, nShort := t.nShort, nLong := t.nLong, nBad := t.nBad, diag := t.diag, reg := t.reg,
      recs := s.recs ++ [e] })
    (wf : recordWf e = true) (addr : e.addr = s.cur) (fits : s.cur.toNat + recordSize e ≤ s.size.toNat)
    (cur : t.cur = BitVec.ofNat 25 (s.cur.toNat + recordSize e))
    (nShort : t.nShort = if e.cls = .short then s.nShort + 1 else s.nShort)
    (nLong : t.nLong = if e.cls = .long then s.nLong + 1 else s.nLong)
    (nBad : t.nBad = if e.cls = .bad then s.nBad + 1 else s.nBad)
    (diag : t.diag.extractLsb' 4 4 = 0#4)
    (reg : ∀ x ∈ t.reg, x ∈ s.reg ∨ x.name.length = 8 ∧ x.declAddr = s.cur) : Base p t := by
  have curNat : t.cur.toNat = s.cur.toNat + recordSize e := by rw [cur, cur_exact fits]
  have pos := recordSize_pos e
  have walked : s.wstate.walked = true := by rw [hw]; rfl
  obtain ⟨low, high⟩ := b.walkBounds walked
  have count (cls : RecClass) {n : BitVec 24} {m : BitVec 24} (hn : n = countOf cls s.recs)
      (hm : m = if e.cls = cls then n + 1 else n) : m = countOf cls (s.recs ++ [e]) := by
    by_cases same : e.cls = cls
    · rw [hm, if_pos same, countOf_append_same same, hn]
    · rw [hm, if_neg same, countOf_append_other same, hn]
  rw [frame]
  exact { b with
    diagReserved := diag
    walkHead := fun h => absurd (walked.symm.trans h) (by decide)
    walkBounds := fun _ => by
      simp only [curNat]
      omega
    contiguous := fun _ => by
      simp only [curNat]
      exact framesFrom_append_one (b.contiguous walked) (by rw [addr])
    terminalEnd := fun h => by cases hw.symm.trans h
    terminalSize := fun h => by cases hw.symm.trans h
    terminalTrunc := fun h => by cases hw.symm.trans h
    countShort := count .short b.countShort nShort
    countLong := count .long b.countLong nLong
    countBad := count .bad b.countBad nBad
    recordsWf := fun x hx => by
      rcases List.mem_append.1 hx with old | new
      · exact b.recordsWf x old
      · rw [List.mem_singleton.1 new]
        exact wf
    registryWf := fun x hx => by
      simp only [curNat]
      rcases reg x hx with old | ⟨name, here⟩
      · obtain ⟨name, above, below⟩ := b.registryWf x old
        exact ⟨name, above, by omega⟩
      · rw [here]
        exact ⟨name, by omega, by omega⟩ }

/-- What a SHORT frame adds to REG stands at CUR, under a name of eight bytes. -/
theorem shortEffect_reg_mem {k : Kind} {type : Byte} {q : List Byte} :
    ∀ x ∈ (shortEffect p k type q s).reg, x ∈ s.reg ∨ x.name.length = 8 ∧ x.declAddr = s.cur := by
  intro x hx
  by_cases decl : k = .dfdecl
  · subst decl
    simp only [shortEffect] at hx
    split at hx
    next d hd =>
      split at hx
      · rw [registryAppend_reg, List.mem_append, List.mem_singleton] at hx
        rcases hx with old | rfl
        · exact .inl old
        · refine .inr ⟨?_, rfl⟩
          unfold declOf at hd
          split at hd
          · cases hd
          · cases hd
            rw [List.length_take]
            omega
      · exact .inl hx
    next => exact .inl hx
  · rw [shortEffect_reg decl] at hx
    exact .inl hx

theorem shortEffect_diag_reserved (h : s.diag.extractLsb' 4 4 = 0#4) (k : Kind) (type : Byte) (q : List Byte) :
    (shortEffect p k type q s).diag.extractLsb' 4 4 = 0#4 := by
  by_cases data : k = .data
  · subst data
    simp only [shortEffect, noteOwner]
    split
    · exact h
    · exact diag_or_reserved h rfl
  · rw [shortEffect_diag data]
    exact h

/-- Every outcome of WALK_STEP keeps what holds in every state of the transfer engine. -/
theorem Base.walkStep (b : Base p s) {p' : Params} (h : atFrame (walkFrame p') s = .next t) : Base p t := by
  obtain ⟨hw, high, cases⟩ := walkStep_cases h
  have walked : s.wstate.walked = true := by rw [hw]; rfl
  have bounds := b.walkBounds walked
  have contiguous := b.contiguous walked
  have container := b.container (by rw [hw]; decide)
  have running := b.walkBusy (.inr hw)
  have noEnd : s.endValid = false := by rw [b.endOnly, hw]; rfl
  rcases cases with ⟨atSize, rfl⟩ | ⟨h0, rfl⟩ | ⟨below, rfl⟩ | ⟨b0, notEnd, h0, h1, fits, rfl⟩ |
    ⟨b0, x, y, q, notEnd, h0, h1, hx, hy, hq, fits, rfl⟩ |
    ⟨b0, b1, q, notEnd, notBad, notLong, h0, h1, hq, fits, rfl⟩
  · exact { b with
      diagReserved := diag_or_reserved b.diagReserved rfl
      container := fun _ => container
      endOnly := noEnd
      walkHead := nofun
      walkBounds := fun _ => bounds
      contiguous := fun _ => contiguous
      terminalEnd := nofun
      terminalSize := fun _ => atSize
      terminalTrunc := nofun
      walkBusy := nofun
      decodeRuns := nofun }
  · exact { b with
      container := fun _ => container
      endOnly := rfl
      walkHead := nofun
      walkBounds := fun _ => bounds
      contiguous := fun _ => contiguous
      terminalEnd := fun _ => ⟨rfl, imgByte_lt h0⟩
      terminalSize := nofun
      terminalTrunc := nofun
      walkBusy := nofun
      decodeRuns := nofun }
  · exact { b with
      diagReserved := diag_or_reserved b.diagReserved rfl
      container := fun _ => container
      endOnly := noEnd
      walkHead := nofun
      walkBounds := fun _ => bounds
      contiguous := fun _ => contiguous
      terminalEnd := nofun
      terminalSize := nofun
      terminalTrunc := fun _ => below
      walkBusy := nofun
      decodeRuns := nofun }
  · rw [walkBad_fits fits]
    exact b.append_record (e := badEntry b0 s) hw rfl (recordWf_bad notEnd s) rfl fits rfl rfl rfl rfl b.diagReserved
      fun x hx => .inl hx
  · have size : recordSize (longEntry b0 (be16 x y) q s) = 4 + (be16 x y).toNat := Nat.add_comm _ _
    exact b.append_record (e := longEntry b0 (be16 x y) q s) hw rfl (recordWf_long notEnd (imgBytes_length hq) s) rfl
      (by rw [size]; exact fits) (by rw [size, ← Nat.add_assoc]; rfl) rfl rfl rfl b.diagReserved fun x hx => .inl hx
  · have cls : (shortEntryOf p' (kindOf b1 b0.toNat) b0 b1 q s).cls = .short := by rw [shortEntryOf_frame]; rfl
    have size : recordSize (shortEntryOf p' (kindOf b1 b0.toNat) b0 b1 q s) = 2 + b0.toNat := by
      rw [shortEntryOf_frame, Nat.add_comm]
      exact congrArg (· + 2) (BitVec.toNat_setWidth_of_le (b := b0) (show 8 ≤ 16 by decide))
    refine b.append_record (e := shortEntryOf p' (kindOf b1 b0.toNat) b0 b1 q s) hw ?_
      (recordWf_short notEnd notBad notLong (imgBytes_length hq) s) (by rw [shortEntryOf_frame]; rfl)
      (by rw [size]; exact fits) (by rw [size, ← Nat.add_assoc]; rfl) ?_ ?_ ?_ ?_ ?_
    · rw [appendShort, shortEffect_frame]
    · rw [cls, if_pos rfl]
      rfl
    · rw [cls, if_neg (by decide), appendShort, shortEffect_frame]
    · rw [cls, if_neg (by decide), appendShort, shortEffect_frame]
    · exact shortEffect_diag_reserved b.diagReserved _ _ _
    · exact shortEffect_reg_mem

end

end Sys2Proof.Machine

namespace Sys2Proof.Machine

section
variable {p : Params} {s t : State}

/-! Ends of commands, operations and sessions -/

/-- No walk goes on where BUSY is 0 or an operation runs. -/
theorem SessionInv.stopped (b : SessionInv p s) (idle : s.busy = false ∨ s.xstate.inOperation = true) :
    ¬ (s.wstate = .wHeader ∨ s.wstate = .wRecords) := by
  intro hw
  obtain ⟨busy, noOp⟩ := b.walkBusy hw
  rcases idle with h | h
  · exact Bool.false_ne_true (h.symm.trans busy)
  · exact Bool.false_ne_true (noOp.symm.trans h)

/-- BUSY falls with a STATUS that can be one. -/
theorem Base.finished (b : Base p s) (stopped : ¬ (s.wstate = .wHeader ∨ s.wstate = .wRecords))
    (rest : s.xstate.inOperation = false) {c : Status} (hc : statusWritable c = true) (r : Result) :
    Base p (finish c r s) :=
  { b with
    statusWritten := ⟨c, hc, rfl⟩
    operationBusy := fun op => absurd (rest.symm.trans op) Bool.false_ne_true
    walkBusy := fun hw => absurd hw stopped
    decodeRuns := nofun }

/-- The end of a session, from any state in which no DECODE runs. -/
theorem inv_sessionEnd (regs : RegsInv s) (walk : WalkInv s) (stopped : ¬ (s.wstate = .wHeader ∨ s.wstate = .wRecords))
    {c : Status} (hc : statusWritable c = true) : Inv p (sessionEnd c s) := by
  have b : Base p (sessionEnd c s) :=
    { regs, walk with
      statusWritten := ⟨c, hc, rfl⟩
      openSession := rfl
      srcBound := rfl
      dstBound := rfl
      operationBusy := nofun
      lineBound := Nat.zero_le _
      lineIdle := fun _ => ⟨rfl, rfl⟩
      walkBusy := fun hw => absurd hw stopped
      decodeRuns := nofun }
  exact b.inv_of_rest rfl rfl

theorem Base.inv_sessionEnd (b : Base p s) (idle : s.busy = false ∨ s.xstate.inOperation = true) {c : Status}
    (hc : statusWritable c = true) : Inv p (sessionEnd c s) :=
  Machine.inv_sessionEnd b.toRegsInv b.toWalkInv (b.stopped idle) hc

/-- An operation ends in X_IDLE with its session open and BUSY = 0. -/
theorem Base.inv_operation_end (b : Base p s) (op : s.xstate.inOperation = true) {c : Status}
    (hc : statusWritable c = true) {u : State} (off : u.timer = false)
    (frame : u = { finish c .none { s with xstate := .xIdle } with timer := u.timer }) : Inv p u := by
  have notClosed : (s.xstate != .xClosed) = true := bne_iff_ne.2 fun hx => by
    rw [hx] at op
    cases op
  have notIdle : s.xstate ≠ .xIdle := fun hx => by
    rw [hx] at op
    cases op
  obtain ⟨noLine, noOvf⟩ := b.lineIdle notIdle
  have bu : Base p u := by
    rw [frame]
    exact { b with
      statusWritten := ⟨c, hc, rfl⟩
      openSession := b.openSession.trans notClosed
      srcBound := b.srcBound.trans notClosed
      dstBound := b.dstBound.trans notClosed
      operationBusy := nofun
      lineBound := b.lineBound
      lineIdle := fun _ => ⟨noLine, noOvf⟩
      walkBusy := fun hw => absurd hw (b.stopped (.inr op))
      decodeRuns := nofun }
  exact bu.inv_of_rest (by rw [frame]; rfl) off

theorem Base.inv_operationExit (b : Base p s) (op : s.xstate.inOperation = true) (off : s.timer = false) :
    Inv p (operationExit s) := b.inv_operation_end op (c := .ok) rfl off rfl

theorem Base.inv_abort (b : Base p s) (op : s.xstate.inOperation = true) {c : Status} (hc : statusWritable c = true)
    (notChannel : c ≠ .channelError) : Inv p (raiseAbort c s) := by
  refine b.inv_operation_end op hc (by rw [raiseAbort_other notChannel]) ?_
  rw [raiseAbort_other notChannel, if_pos op]
  rfl

/-- A transport error ends the session. -/
theorem Base.inv_channelError (b : Base p s) (idle : s.busy = false ∨ s.xstate.inOperation = true) :
    Inv p (raiseAbort .channelError s) := b.inv_sessionEnd idle rfl

/-! The entry of an operation -/

/-- An operation starts in an open session while no DECODE runs. -/
theorem Base.inv_start (b : Base p s) (idle : s.busy = false) (hx : s.xstate = .xIdle) :
    Inv p (writeOperation s) ∧ Inv p (readOperation s) := by
  have stopped := b.stopped (.inl idle)
  have opened := b.openSession
  have src := b.srcBound
  have dst := b.dstBound
  rw [hx] at opened src dst
  have bw : Base p (writeOperation s) :=
    { b with
      openSession := opened, srcBound := src, dstBound := dst
      operationBusy := fun _ => rfl
      lineBound := Nat.zero_le _
      lineIdle := fun _ => ⟨rfl, rfl⟩
      walkBusy := fun hw => absurd hw stopped
      decodeRuns := nofun }
  have br : Base p (readOperation s) :=
    { b with
      openSession := opened, srcBound := src, dstBound := dst
      operationBusy := fun _ => rfl
      lineBound := Nat.zero_le _
      lineIdle := fun _ => ⟨rfl, rfl⟩
      walkBusy := fun hw => absurd hw stopped
      decodeRuns := nofun }
  exact ⟨bw.inv ⟨rfl, rfl, rfl⟩ nofun, br.inv ⟨rfl, rfl, rfl, rfl, rfl⟩ nofun⟩

/-! Host commands that are taken: BUSY is 0, so no operation and no DECODE runs -/

theorem Base.rest_of_idle (b : Base p s) (idle : s.busy = false) : s.xstate.inOperation = false := by
  rw [← Bool.not_eq_true]
  intro op
  exact Bool.false_ne_true (idle.symm.trans (b.operationBusy op))

/-- What a command that ends at once may have changed: STATUS, DIAG and HRSP, CSA, CFG, the sinks and the timer. -/
structure Answered (s t : State) : Prop where
  cfg : cfgLegal s.cfg = true → cfgLegal t.cfg = true
  sinks : Store.wf s.sinks = true → Store.wf t.sinks = true
  timer : s.timer = false → t.timer = false
  frame : ∃ c, statusWritable c = true ∧
    t = { answered s (statusCode c) t.hrsp.result with
          csa := t.csa, csMatch := t.csMatch, cfg := t.cfg, sinks := t.sinks, timer := t.timer }

theorem Base.inv_answered (b : Base p s) (idle : s.busy = false) (off : s.timer = false) (a : Answered s t) :
    Inv p t := by
  obtain ⟨c, hc, frame⟩ := a.frame
  have stopped := b.stopped (.inl idle)
  have rest := b.rest_of_idle idle
  have bt : Base p t := by
    rw [frame]
    exact { b with
      sinksWf := a.sinks b.sinksWf
      diagReserved := BitVec.extractLsb'_zero
      statusWritten := ⟨c, hc, rfl⟩
      cfgOk := a.cfg b.cfgOk
      operationBusy := fun op => absurd (rest.symm.trans op) Bool.false_ne_true
      walkBusy := fun hw => absurd hw stopped
      decodeRuns := nofun }
  refine bt.inv_of_rest ?_ (a.timer off)
  rw [frame]
  exact rest

theorem answered_refused (s : State) {c : Status} (hc : statusWritable c = true) :
    Answered s (answered s (statusCode c) .none) := ⟨id, id, id, c, hc, rfl⟩

/-- What the body of such a command has written before it ends. -/
structure Worked (s u : State) : Prop where
  cfg : cfgLegal s.cfg = true → cfgLegal u.cfg = true
  sinks : Store.wf s.sinks = true → Store.wf u.sinks = true
  frame : u = { accept s with csa := u.csa, csMatch := u.csMatch, cfg := u.cfg, sinks := u.sinks }

theorem Worked.diag {u : State} (w : Worked s u) : u.diag = 0 := by
  rw [w.frame]
  rfl

theorem Worked.xstate {u : State} (w : Worked s u) : u.xstate = s.xstate := by
  rw [w.frame]
  rfl

theorem Worked.finished {u : State} (w : Worked s u) {c : Status} (hc : statusWritable c = true) (r : Result) :
    Answered s (finish c r u) where
  cfg := w.cfg
  sinks := w.sinks
  timer := fun off => by
    rw [w.frame]
    exact off
  frame := ⟨c, hc, by
    rw [w.frame]
    rfl⟩

theorem Worked.aborted {u : State} (w : Worked s u) (rest : s.xstate.inOperation = false) {c : Status}
    (hc : statusWritable c = true) (notChannel : c ≠ .channelError) : Answered s (raiseAbort c u) := by
  rw [raiseAbort_codec notChannel (by rw [w.xstate]; exact rest) w.diag]
  exact ⟨w.cfg, w.sinks, fun _ => rfl, c, hc, by rw [w.frame]; rfl⟩

/-- A command taken is refused, or its body runs from the accepted state. -/
theorem hostCommand_total {P : State → Prop} (idle : s.busy = false) {legal formed ok : Bool} {body : State → Answer}
    (refused : ∀ c, statusWritable c = true → P (answered s (statusCode c) .none))
    (runs : legal = true → formed = true → ok = true → ∃ t, body (accept s) = .next t ∧ P t) :
    ∃ t, hostCommand legal formed ok body s = .next t ∧ P t := by
  by_cases hl : legal = true
  · by_cases hf : formed = true
    · by_cases hc : ok = true
      · rw [hostCommand_runs idle hl hf hc]
        exact runs hl hf hc
      · exact ⟨_, hostCommand_badConfig idle hl hf (by simpa using hc), refused .badConfig rfl⟩
    · exact ⟨_, hostCommand_badCommand idle (.inr (by simpa using hf)), refused .badCommand rfl⟩
  · exact ⟨_, hostCommand_badCommand idle (.inl (by simpa using hl)), refused .badCommand rfl⟩

theorem hostCommand_answered (idle : s.busy = false) {legal formed ok : Bool} {body : State → Answer}
    (runs : formed = true → ok = true → ∃ t, body (accept s) = .next t ∧ Answered s t) :
    ∃ t, hostCommand legal formed ok body s = .next t ∧ Answered s t :=
  hostCommand_total idle (fun _ => answered_refused s) fun _ => runs

theorem worked_accept (s : State) : Worked s (accept s) := ⟨id, id, rfl⟩

/-- The patch of a header leaves what ENCODE and HDR_PATCH have written before. -/
theorem Worked.patched {u : State} (w : Worked s u) (h : List Byte) (cfg : BitVec 40) :
    Worked s (patchHeader h cfg u).1 := by
  rw [patchHeader_frame]
  exact ⟨w.cfg, w.sinks, by rw [w.frame]⟩

theorem Worked.configured {u : State} (w : Worked s u) {cfg : BitVec 40} (legal : cfgLegal cfg = true) :
    Worked s { u with cfg := cfg } := ⟨fun _ => legal, w.sinks, by rw [w.frame]⟩

theorem Worked.sinkSet {u : State} (w : Worked s u) {r : Nat} {m : Memory}
    (hm : Store.wf u.sinks = true → Memory.wf m = true) :
    Worked s (setSink r m u) :=
  ⟨w.cfg, fun wf => setSink_wf _ r m (w.sinks wf) (hm (w.sinks wf)), by
    rw [w.frame]
    rfl⟩

theorem Worked.appended {u : State} (w : Worked s u) (r : Nat) (bs : List Byte) : Worked s (appendSink r bs u) :=
  ⟨w.cfg, fun wf => appendSink_wf u r bs (w.sinks wf), by
    rw [w.frame]
    rfl⟩

theorem encode_answered (rest : s.xstate.inOperation = false) {pack : PackOperand} {cfg : BitVec 40}
    (legal : cfgLegal cfg = true) (dst : Nat) : ∃ t, encodeBody pack cfg dst (accept s) = .next t ∧ Answered s t := by
  have started : Worked s (encodeInit cfg dst (accept s)) := ((worked_accept s).configured legal).sinkSet fun _ => rfl
  have patched := started.patched pack.hdr cfg
  cases valid : packBytes pack.recs with
  | none => exact ⟨_, encodeBody_invalid valid, started.aborted rest rfl (by decide)⟩
  | some frames =>
    simp only [encodeBody, valid]
    split
    · exact ⟨_, rfl, patched.aborted rest rfl (by decide)⟩
    · exact ⟨_, rfl, (patched.appended dst _).finished (c := .ok) rfl _⟩

/-- Every codec command but DECODE ends at once. -/
theorem codec_answered (idle : s.busy = false) (rest : s.xstate.inOperation = false) {i : Instr}
    (codec : isCodecCommand i = true) (notDecode : ∀ src, i ≠ .decode src) :
    ∃ t, exec i s = .next t ∧ Answered s t := by
  have taken := worked_accept s
  cases i with
  | decode src => exact absurd rfl (notDecode src)
  | encode pack cfg dst => exact hostCommand_answered idle fun _ legal => encode_answered rest legal dst
  | frameEnc d dst =>
    refine hostCommand_answered idle fun _ _ => ?_
    unfold frameEncBody
    split
    · exact ⟨_, rfl, taken.aborted rest rfl (by decide)⟩
    · exact ⟨_, rfl, (taken.appended dst _).finished (c := .ok) rfl _⟩
  | frameClassify bytes => exact hostCommand_answered idle fun _ _ => ⟨_, rfl, taken.finished (c := .ok) rfl _⟩
  | hdrParse h =>
    have parsed : Worked s (parseHeader Config.params h (accept s)).1 := by
      rw [parseHeader_frame]
      exact ⟨id, id, rfl⟩
    exact hostCommand_answered idle fun _ _ => ⟨_, rfl, parsed.finished (c := .ok) rfl _⟩
  | csum h =>
    have summed : Worked s (csumBytes h (accept s)) := by
      rw [csumBytes_frame]
      exact ⟨id, id, rfl⟩
    exact hostCommand_answered idle fun _ _ => ⟨_, rfl, summed.finished (c := .ok) rfl _⟩
  | csumCheck h =>
    have checked : Worked s (checkHeader Config.params h (accept s)).1 := by
      rw [checkHeader_frame]
      exact ⟨id, id, rfl⟩
    exact hostCommand_answered idle fun _ _ => ⟨_, rfl, checked.finished (c := .ok) rfl _⟩
  | hdrPatch h cfg =>
    exact hostCommand_answered idle fun _ legal =>
      ⟨_, rfl, ((taken.configured legal).patched h cfg).finished (c := .ok) rfl _⟩
  | _ => cases codec

/-! DECODE's acceptance -/

/-- A walk that has not begun: empty lists, and a container where the header step is next. -/
theorem walkInv_of_head (unwalked : s.wstate.walked = false)
    (container : s.wstate ≠ .wIdle → 10 ≤ s.size.toNat ∧ 6 + s.size.toNat ≤ s.src.length)
    (endValid : s.endValid = false) (recs : s.recs = []) (reg : s.reg = []) (nShort : s.nShort = 0) (nLong : s.nLong = 0) (nBad : s.nBad = 0) :
    WalkInv s where
  container := container
  endOnly := endValid.trans (beq_eq_false_iff_ne.2 fun hw => by
    rw [hw] at unwalked
    cases unwalked).symm
  walkHead := fun _ => ⟨recs, reg⟩
  walkBounds := fun h => absurd (unwalked.symm.trans h) Bool.false_ne_true
  contiguous := fun h => absurd (unwalked.symm.trans h) Bool.false_ne_true
  terminalEnd := fun hw => by rw [hw] at unwalked; cases unwalked
  terminalSize := fun hw => by rw [hw] at unwalked; cases unwalked
  terminalTrunc := fun hw => by rw [hw] at unwalked; cases unwalked
  countShort := by rw [nShort, recs]; rfl
  countLong := by rw [nLong, recs]; rfl
  countBad := by rw [nBad, recs]; rfl
  recordsWf := by rw [recs]; nofun
  registryWf := by rw [reg]; nofun

/-- DECODE's acceptance: the walk's registers are cleared, and BUSY stays 1 only for an acceptable container. -/
theorem Base.decode_total (b : Base p s) (idle : s.busy = false) (off : s.timer = false) (src : List Byte) :
    ∃ t, exec (.decode src) s = .next t ∧ Inv p t := by
  have rest := b.rest_of_idle idle
  by_cases ok : acceptable src = true
  · obtain ⟨-, -, ten, fits⟩ := (acceptable_iff src).1 ok
    have walk : WalkInv (accepted src s) :=
      walkInv_of_head rfl (fun _ => ⟨ten, by simpa [accepted] using fits⟩) rfl rfl rfl rfl rfl rfl
    have bt : Base p (accepted src s) :=
      { walk, b with
        srcWf := ofBytes_wf src
        diagReserved := BitVec.extractLsb'_zero
        operationBusy := fun _ => rfl
        walkBusy := fun _ => ⟨rfl, rest⟩
        decodeRuns := nofun }
    exact ⟨_, exec_decode_acceptable idle ok, bt.inv_of_rest rest off⟩
  · obtain ⟨c, size, hc, notChannel, h⟩ := exec_decode_rejects idle ok
    refine ⟨_, h, ?_⟩
    rw [raiseAbort_codec (s := { decodeInit src (accept s) with size := size }) notChannel rest rfl]
    have walk : WalkInv { decodeInit src (accept s) with size := size } :=
      walkInv_of_head rfl (fun h => absurd rfl h) rfl rfl rfl rfl rfl rfl
    have bt : Base p
        { answered { decodeInit src (accept s) with size := size } (statusCode c) .none with timer := false } :=
      { walk, b with
        srcWf := ofBytes_wf src
        diagReserved := BitVec.extractLsb'_zero
        statusWritten := ⟨c, hc, rfl⟩
        operationBusy := fun op => absurd (rest.symm.trans op) Bool.false_ne_true
        walkBusy := nofun
        decodeRuns := nofun }
    exact bt.inv_of_rest rest rfl

end

end Sys2Proof.Machine

namespace Sys2Proof.Machine

section
variable {s : State}

/-! Session commands (R230, R236, R238, R248) -/

theorem exec_sessionOpen (src dst : Nat) (cfg : BitVec 40) (s : State) :
    exec (.sessionOpen src dst cfg) s =
      hostCommand (s.xstate == .xClosed) true (cfgLegal cfg) (sessionOpenBody src dst cfg) s := rfl

theorem exec_sessionClose (s : State) :
    exec .sessionClose s = hostCommand (s.xstate == .xIdle) true true (fun t => .next (sessionEnd .ok t)) s := rfl

theorem exec_startWrite (cfg : BitVec 40) (s : State) :
    exec (.startWrite cfg) s =
      hostCommand (s.xstate == .xIdle) true (cfgLegal cfg)
        (fun t => .next (writeOperation { t with scfg := cfg })) s := rfl

theorem exec_startRead (cfg : BitVec 40) (s : State) :
    exec (.startRead cfg) s =
      hostCommand (s.xstate == .xIdle) true (cfgLegal cfg)
        (fun t => .next (readOperation { t with scfg := cfg })) s := rfl

/-- Settles O38: both commands run from the accepted state, whose DIAG is clear. -/
theorem sessionOpenAndClose : Obligations.SessionOpenAndClose := by
  unfold Obligations.SessionOpenAndClose
  intro src dst cfg s idle
  have opens (closed : s.xstate = .xClosed) (legal : cfgPackType cfg ≠ 3#2) :
      exec (.sessionOpen src dst cfg) s = sessionOpenBody src dst cfg (accept s) :=
    hostCommand_runs idle (by rw [closed]; rfl) rfl (cfgLegal_of_packType legal)
  refine ⟨fun closed legal noErr => ?_, fun closed legal err => ?_, fun opened => ?_⟩
  · rw [opens closed legal, sessionOpenBody, if_neg (by simp [noErr])]
    rfl
  · rw [opens closed legal, sessionOpenBody, if_pos (by simp [err])]
    rfl
  · rw [exec_sessionClose, hostCommand_runs idle (beq_iff_eq.2 opened) rfl rfl]
    rfl

/-- Settles O39: the operation's entry from the accepted state with SCFG loaded. -/
theorem startCommandsEnterOperation : Obligations.StartCommandsEnterOperation := by
  unfold Obligations.StartCommandsEnterOperation
  intro cfg s idle opened legal
  have inIdle : (s.xstate == XState.xIdle) = true := beq_iff_eq.2 opened
  have ok := cfgLegal_of_packType legal
  rw [exec_startWrite, exec_startRead, hostCommand_runs idle inIdle rfl ok, hostCommand_runs idle inIdle rfl ok]
  exact ⟨rfl, rfl⟩

/-! The recogniser (R231 to R233) -/

theorem recognising_iff : recognising s = true ↔ s.xstate = .xIdle ∧ s.busy = false := by
  simp [recognising]

theorem controlLine_recognised (hr : recognising s = true) (effect : State → State) :
    controlLine effect s = .next (effect s) := by
  rw [controlLine, if_pos hr]

theorem controlLine_elsewhere (hr : ¬ recognising s = true) (effect : State → State) :
    controlLine effect s = .next s := by
  rw [controlLine, if_neg hr]

/-- Settles O40: a control line acts where the recogniser runs, and nowhere else. -/
theorem controlLinesEffect : Obligations.ControlLinesEffect := by
  unfold Obligations.ControlLinesEffect
  refine fun s => ⟨fun opened idle => ?_, fun elsewhere => ?_⟩
  · have hr := recognising_iff.2 ⟨opened, idle⟩
    exact ⟨controlLine_recognised hr _, controlLine_recognised hr _, controlLine_recognised hr _⟩
  · have hr : ¬ recognising s = true := by
      rw [recognising_iff]
      rintro ⟨opened, idle⟩
      rcases elsewhere with h | h
      · exact h opened
      · exact Bool.false_ne_true (idle.symm.trans h)
    exact ⟨controlLine_elsewhere hr _, controlLine_elsewhere hr _, controlLine_elsewhere hr _⟩

/-- What a line dispatched does: the three control lines, and no other line, the empty one neither (R126, R233). -/
theorem dispatchLine_eq (line : List Byte) (s : State) :
    dispatchLine line s =
      if line = bytesXXWrite then writeOperation s
      else if line = bytesXXRead then readOperation s
      else if line = bytesXXExit then sessionEnd .ok s
      else s := by
  unfold dispatchLine decodeLine
  split_ifs <;> rfl

theorem exec_lineStep (opened : s.xstate = .xIdle) (idle : s.busy = false) :
    exec .lineStep s = recogniserStep Config.params s := by
  have unfolded : exec .lineStep s = execLineStep s := rfl
  rw [unfolded, execLineStep, if_pos (recognising_iff.2 ⟨opened, idle⟩)]

theorem recogniserStep_chErr (p : Params) (err : s.chErr = true) :
    recogniserStep p s = .next (sessionEnd .channelError s) := by
  rw [recogniserStep, if_pos err]

theorem recogniserStep_empty (p : Params) (noErr : s.chErr = false) (empty : s.rxq = []) :
    recogniserStep p s = .next s := by
  rw [recogniserStep, if_neg (by simp [noErr]), empty]

theorem recogniserStep_byte (p : Params) (noErr : s.chErr = false) {b : Byte} {rest : List Byte}
    (head : s.rxq = b :: rest) : recogniserStep p s = .next (lineByte p b { s with rxq := rest }) := by
  rw [recogniserStep, if_neg (by simp [noErr]), head]

theorem recogniserStep_next (p : Params) (s : State) : ∃ t, recogniserStep p s = .next t := by
  by_cases err : s.chErr = true
  · exact ⟨_, recogniserStep_chErr p err⟩
  · have noErr : s.chErr = false := by simpa using err
    cases head : s.rxq with
    | nil => exact ⟨_, recogniserStep_empty p noErr head⟩
    | cons b rest => exact ⟨_, recogniserStep_byte p noErr head⟩

theorem lineByte_other (p : Params) {b : Byte} (hb : b ≠ 0x0A#8) (s : State) : lineByte p b s = lineAppend p b s :=
  if_neg hb

theorem lineByte_overflowed (p : Params) (ovf : s.lineOvf = true) : lineByte p 0x0A#8 s = clearLine s :=
  (if_pos rfl).trans (if_pos ovf)

theorem lineByte_line (p : Params) (noOvf : s.lineOvf = false) :
    lineByte p 0x0A#8 s = dispatchLine (stripCr s.linebuf) (clearLine s) :=
  (if_pos rfl).trans (if_neg (by simp [noOvf]))

/-- The end of a session where BUSY is 0 already. -/
theorem sessionEnd_idle (idle : s.busy = false) (c : Status) :
    sessionEnd c s =
      { s with
        status := statusCode c, hrsp := { status := statusCode c, diag := s.diag, result := .none }, chOpen := false,
        xstate := .xClosed, linebuf := [], lineOvf := false, srcBind := none, dstBind := none, timer := false } := by
  cases s
  cases idle
  rfl

/-- Settles O41: the recogniser's step, by its events. -/
theorem lineStepEffect : Obligations.LineStepEffect := by
  unfold Obligations.LineStepEffect
  intro s opened idle
  rw [exec_lineStep opened idle]
  refine ⟨recogniserStep_next _ s, fun err => ?_, recogniserStep_empty _, fun b rest noErr head => ?_⟩
  · rw [recogniserStep_chErr _ err, sessionEnd_idle idle]
    rfl
  · rw [recogniserStep_byte _ noErr head]
    refine ⟨fun other short => ?_, fun other long => ?_, ?_, ?_⟩
    · rw [lineByte_other _ other]
      exact congrArg _ (if_pos short)
    · rw [lineByte_other _ other]
      exact congrArg _ (if_neg (Nat.not_lt.2 long))
    · rintro rfl ovf
      exact congrArg _ (lineByte_overflowed _ ovf)
    · rintro line rfl noOvf rfl
      rw [lineByte_line (s := { s with rxq := rest }) _ noOvf, dispatchLine_eq,
        sessionEnd_idle (s := clearLine { s with rxq := rest }) idle]
      rfl

/-! Refusals (R266, R267) -/

/-- Settles O42: the first refusal of `hostCommand`, and the event of a command offered while BUSY is 1. -/
theorem busyRefusesEveryCommand : Obligations.BusyRefusesEveryCommand := by
  unfold Obligations.BusyRefusesEveryCommand
  constructor
  · intro i s host busy
    cases i with
    | startWrite cfg => rw [exec_startWrite, hostCommand_busy busy]; rfl
    | startRead cfg => rw [exec_startRead, hostCommand_busy busy]; rfl
    | sessionClose => rw [exec_sessionClose, hostCommand_busy busy]; rfl
    | decode | encode | frameEnc | frameClassify | hdrParse | csum | csumCheck | hdrPatch | sessionOpen =>
      exact hostCommand_busy busy
    | _ => cases host
  · intro c rest s busy offered
    rw [step, turn, offered]
    exact if_pos busy

/-- Settles O43: the refusals of `hostCommand` in their order. -/
theorem refusalsInOrder : Obligations.RefusalsInOrder := by
  unfold Obligations.RefusalsInOrder
  intro s cfg idle
  have notLegal {x : XState} (h : s.xstate ≠ x) : (s.xstate == x) = false := beq_eq_false_iff_ne.2 h
  have notTen {h : List Byte} (hl : h.length ≠ 10) : (h.length == 10) = false := beq_eq_false_iff_ne.2 hl
  refine ⟨fun src dst notClosed => hostCommand_badCommand idle (.inl (notLegal notClosed)), fun notIdle => ?_,
    fun h hl => ?_, hostCommand_badCommand idle (.inr rfl), fun bad => ⟨fun h hl => ?_, fun src dst closed => ?_,
    fun opened => ?_⟩⟩
  · have illegal := notLegal notIdle
    rw [exec_startWrite, exec_startRead, exec_sessionClose]
    exact ⟨hostCommand_badCommand idle (.inl illegal), hostCommand_badCommand idle (.inl illegal),
      hostCommand_badCommand idle (.inl illegal)⟩
  · have unformed := notTen hl
    exact ⟨hostCommand_badCommand idle (.inr unformed), hostCommand_badCommand idle (.inr unformed),
      hostCommand_badCommand idle (.inr unformed), fun recs tail dst => hostCommand_badCommand idle (.inr unformed)⟩
  all_goals have notOk : cfgLegal cfg = false := by simp [cfgLegal, bad]
  · have formed : (h.length == 10) = true := beq_iff_eq.2 hl
    exact ⟨hostCommand_badConfig idle rfl formed notOk,
      fun recs tail dst => hostCommand_badConfig idle rfl formed notOk⟩
  · exact hostCommand_badConfig idle (beq_iff_eq.2 closed) rfl notOk
  · have legal := beq_iff_eq.2 opened
    rw [exec_startWrite, exec_startRead]
    exact ⟨hostCommand_badConfig idle legal rfl notOk, hostCommand_badConfig idle legal rfl notOk⟩

/-! What OPKFE does on its turn between commands -/

theorem nextAction_command (noOp : s.xstate.inOperation = false) (idle : s.busy = false)
    (noLine : s.xstate = .xClosed ∨ lineEvent s = false) : nextAction s = nextCommand s := by
  have noStep : (recognising s && lineEvent s) = false := by
    rcases noLine with closed | quiet
    · simp [recognising, closed]
    · simp [quiet]
  rw [nextAction, if_neg (by simp [noOp]), if_neg (by simp [idle]), if_neg (by simp [noStep])]

theorem nextAction_line (opened : s.xstate = .xIdle) (idle : s.busy = false) (event : lineEvent s = true) :
    nextAction s = .perform .lineStep s := by
  rw [nextAction, if_neg (by simp [opened, XState.inOperation]), if_neg (by simp [idle]),
    if_pos (by simp [recognising_iff.2 ⟨opened, idle⟩, event])]

theorem nextCommand_decoded {c : HostCmd} {rest : List HostCmd} {i : Instr} (head : s.hcmd = c :: rest)
    (hd : decode (.host c) = .ok i) : nextCommand s = .perform i { s with hcmd := rest } := by
  rw [nextCommand, head]
  simp only [hd]

theorem nextCommand_unassigned {c : HostCmd} {rest : List HostCmd} {e : DecodeError} (head : s.hcmd = c :: rest)
    (hd : decode (.host c) = .error e) : nextCommand s = .unassigned { s with hcmd := rest } := by
  rw [nextCommand, head]
  simp only [hd]

/-- Every opcode outside R107 is unassigned. -/
theorem decodeHost_unassigned {c : HostCmd}
    (h : c.opcode.toNat ∉ [0x01, 0x02, 0x03, 0x04, 0x05, 0x06, 0x07, 0x08, 0x10, 0x11, 0x20, 0x21]) :
    decode (.host c) = .error (.unassignedOpcode c.opcode) := by
  rw [decode, decodeHost]
  split
  case h_13 => rfl
  all_goals
    next eq =>
      rw [eq] at h
      exact absurd h (by decide)

/-- Settles O44: the engine takes the command, the decoder has no row for it, and it is refused. -/
theorem unassignedOpcodeRefused : Obligations.UnassignedOpcodeRefused := by
  unfold Obligations.UnassignedOpcodeRefused
  intro c rest s hr quiet head unassigned
  obtain ⟨idle, noOp, noSched⟩ := (ready_iff s).1 hr
  rw [step_of_no_sched noSched, engineTurn, nextAction_command noOp idle (.inr quiet),
    nextCommand_unassigned head (decodeHost_unassigned unassigned)]
  rfl

end

end Sys2Proof.Machine

namespace Sys2Proof.Machine

section
variable {s t : State}

/-! The instruction a step performs (R24, R135, R232) -/

/-- WALK_STEP reads at CUR the frame its bytes decode to, and does what that frame's instruction does. -/
theorem walkStep_decoded {bytes : List Byte} {i : Instr} (hw : s.wstate = .wRecords)
    (here : imgBytes s s.cur.toNat bytes.length = .ok bytes) (decoded : decodeFrame bytes = .ok i) :
    exec .walkStep s = exec i s := by
  cases bytes with
  | nil => cases decoded
  | cons b0 rest =>
    obtain ⟨h0, after0⟩ := imgBytes_cons_iff.1 here
    have below := imgByte_lt h0
    rw [exec_walkStep hw below]
    by_cases isEnd : b0 = 0xFF#8
    · subst isEnd
      cases decoded
      rw [walkFrame_end h0, exec_endFrame hw below]
    · cases rest with
      | nil =>
        rw [decodeFrame, if_neg isEnd] at decoded
        cases decoded
      | cons b1 rest =>
        obtain ⟨h1, after1⟩ := imgBytes_cons_iff.1 after0
        by_cases bad : b1 = 0xFF#8
        · subst bad
          rw [decodeFrame_bad isEnd] at decoded
          cases decoded
          rw [walkFrame_bad h0 isEnd h1, exec_badFrame hw below]
        · by_cases long : b1 = 0x80#8
          · subst long
            match rest with
            | [] | [_] => simp only [decodeFrame, if_neg isEnd, classify_long isEnd, reduceCtorEq] at decoded
            | x :: y :: rest =>
              obtain ⟨hx, after2⟩ := imgBytes_cons_iff.1 after1
              obtain ⟨hy, -⟩ := imgBytes_cons_iff.1 after2
              rw [decodeFrame_long isEnd] at decoded
              cases decoded
              rw [walkFrame_long h0 isEnd h1 hx hy, exec_longFrame hw below]
          · rw [decodeFrame_short isEnd bad long] at decoded
            cases decoded
            rw [walkFrame_short h0 isEnd h1 bad long, exec_shortFrame hw below]

/-- The line a line feed ends is performed as the control line it decodes to. -/
theorem dispatchLine_decoded {line : List Byte} {i : Instr} (decoded : decodeLine line = .ok i)
    (hr : recognising s = true) : .next (dispatchLine line s) = exec i s := by
  rw [dispatchLine_eq]
  unfold decodeLine at decoded
  split_ifs at decoded with hw hrd hx
  · cases decoded
    rw [if_pos hw]
    exact (controlLine_recognised hr _).symm
  · cases decoded
    rw [if_neg hw, if_pos hrd]
    exact (controlLine_recognised hr _).symm
  · cases decoded
    rw [if_neg hw, if_neg hrd, if_pos hx]
    exact (controlLine_recognised hr _).symm

/-- Settles O58: the three places instructions come from. -/
theorem stepRunsDecoded : Obligations.StepRunsDecoded := by
  unfold Obligations.StepRunsDecoded
  intro i s noSched noOp
  rw [step_of_no_sched noSched]
  refine ⟨fun c rest idle noLine head decoded => ?_, engineTurn_walk noOp, fun bytes busy hw here decoded => ?_,
    fun rest idle opened noErr feed noOvf decoded => ?_⟩
  · rw [engineTurn, nextAction_command noOp idle noLine, nextCommand_decoded head decoded]
  · rw [engineTurn_walk noOp busy hw, walkStep_decoded hw here decoded]
  · have event : lineEvent s = true := by simp [lineEvent, feed]
    have cleared : recognising (clearLine { s with rxq := rest }) = true := recognising_iff.2 ⟨opened, idle⟩
    rw [engineTurn, nextAction_line opened idle event]
    exact (exec_lineStep opened idle).trans ((recogniserStep_byte _ noErr feed).trans
      ((congrArg _ (lineByte_line (s := { s with rxq := rest }) _ noOvf)).trans (dispatchLine_decoded decoded cleared)))

/-! What the codec leaves alone (R237) -/

/-- Only the codec's registers, the answer registers, the timer and the sinks may differ. -/
def CodecOnly (s t : State) : Prop :=
  t = { s with
    wstate := t.wstate, cur := t.cur, size := t.size, nShort := t.nShort, nLong := t.nLong, nBad := t.nBad, hdr := t.hdr,
    diag := t.diag, status := t.status, busy := t.busy, endAddr := t.endAddr, endValid := t.endValid, cfg := t.cfg,
    reg := t.reg, recs := t.recs, csa := t.csa, csMatch := t.csMatch, timer := t.timer, src := t.src, sinks := t.sinks,
    hrsp := t.hrsp }

theorem CodecOnly.trans {u : State} (h : CodecOnly s t) (h' : CodecOnly t u) : CodecOnly s u := by
  refine Eq.trans h' ?_
  rw [h]

theorem CodecOnly.xstate (h : CodecOnly s t) : t.xstate = s.xstate := by rw [h]

theorem CodecOnly.sched (h : CodecOnly s t) : t.sched = s.sched := by rw [h]

theorem decodeHeader_codecOnly {p : Params} (h : decodeHeader p s = .next t) : CodecOnly s t := by
  obtain ⟨hdr, -, h⟩ := orFault_next.1 h
  obtain rfl := Host.Outcome.next.inj h
  have noted (r : CheckResult) (u : State) : CodecOnly u (noteChecksum r u) := by
    unfold noteChecksum
    split <;> rfl
  have parsed : CodecOnly s (parseHeader p hdr (latchHeader hdr s)).1 := by
    rw [parseHeader_frame]
    rfl
  exact (parsed.trans (noted _ _)).trans rfl

theorem decodeResult_codecOnly {p : Params} (h : decodeResult p s = .next t) : CodecOnly s t := by
  obtain ⟨tail, -, h⟩ := orFault_next.1 h
  obtain ⟨e, -, h⟩ := orFault_next.1 h
  obtain rfl := Host.Outcome.next.inj h
  rfl

theorem walkStep_codecOnly (h : exec .walkStep s = .next t) : CodecOnly s t := by
  rw [walkStep_frame (p := Config.params) h]
  rfl

/-- A step of the DECODE that runs. -/
theorem decodeStep_codecOnly (noSched : s.sched = []) (busy : s.busy = true) (noOp : s.xstate.inOperation = false)
    (h : step s = .next t) : CodecOnly s t := by
  rw [step_of_no_sched noSched] at h
  cases hw : s.wstate with
  | wIdle =>
    rw [engineTurn, nextAction_decode (a := .stuck) noOp busy (by rw [nextDecode, hw])] at h
    cases h
  | wHeader =>
    rw [engineTurn_header noOp busy hw] at h
    exact decodeHeader_codecOnly h
  | wRecords =>
    rw [engineTurn_walk noOp busy hw] at h
    exact walkStep_codecOnly h
  | wEnd | wSize | wTrunc =>
    rw [engineTurn_result noOp busy (by rw [hw]; decide)] at h
    exact decodeResult_codecOnly h

theorem runBusy_codecOnly {n : Nat} (noSched : s.sched = []) (noOp : s.xstate.inOperation = false)
    (h : runBusy n s = .next t) : CodecOnly s t := by
  induction n generalizing s with
  | zero =>
    obtain rfl := Host.Outcome.next.inj h
    rfl
  | succ n ih =>
    by_cases busy : s.busy = true
    · cases hs : step s with
      | next u =>
        have first := decodeStep_codecOnly noSched busy noOp hs
        rw [Tests.runBusy_step busy hs] at h
        exact first.trans (ih (by rw [first.sched, noSched]) (by rw [first.xstate, noOp]) h)
      | fault f => simp only [runBusy, busy, hs, if_true, reduceCtorEq] at h
      | refused r => simp only [runBusy, busy, hs, if_true, reduceCtorEq] at h
    · rw [runBusy_done (by simpa using busy)] at h
      obtain rfl := Host.Outcome.next.inj h
      rfl

theorem codecCommand_codecOnly (idle : s.busy = false) (noOp : s.xstate.inOperation = false) {i : Instr}
    (codec : isCodecCommand i = true) (h : exec i s = .next t) : CodecOnly s t := by
  by_cases isDecode : ∃ src, i = .decode src
  · obtain ⟨src, rfl⟩ := isDecode
    by_cases ok : acceptable src = true
    · rw [exec_decode_acceptable idle ok] at h
      obtain rfl := Host.Outcome.next.inj h
      rfl
    · obtain ⟨c, size, -, notChannel, rejected⟩ := exec_decode_rejects idle ok
      rw [rejected, raiseAbort_codec (s := { decodeInit src (accept s) with size := size }) notChannel noOp rfl] at h
      obtain rfl := Host.Outcome.next.inj h
      rfl
  · obtain ⟨u, hu, answered⟩ := codec_answered idle noOp codec fun src e => isDecode ⟨src, e⟩
    obtain rfl := Host.Outcome.next.inj (hu.symm.trans h)
    obtain ⟨c, -, frame⟩ := answered.frame
    rw [frame]
    rfl

/-- Settles O45: the command itself, then every step while BUSY is 1, write codec registers only. -/
theorem codecLeavesTransfer : Obligations.CodecLeavesTransfer := by
  unfold Obligations.CodecLeavesTransfer
  intro i n s s1 t codec opened idle noSched first run
  have noOp : s.xstate.inOperation = false := by rw [opened]; rfl
  have start := codecCommand_codecOnly idle noOp codec first
  have whole := start.trans (runBusy_codecOnly (by rw [start.sched, noSched]) (by rw [start.xstate, noOp]) run)
  rw [whole]
  exact ⟨opened, rfl, rfl, rfl, rfl, rfl, rfl, rfl, rfl, rfl, rfl, rfl, rfl, rfl, rfl⟩

end

end Sys2Proof.Machine

namespace Sys2Proof.Machine

section
variable {s t : State}

/-! The channel and the end of an operation (R235, R262, R270) -/

theorem transmit_chErr (err : s.chErr = true) (b : Byte) (k : State → Answer) :
    transmit b k s = .next (sessionEnd .channelError s) := by
  rw [transmit, if_pos err]
  rfl

theorem transmit_sends (noErr : s.chErr = false) (b : Byte) (k : State → Answer) :
    transmit b k s = k { s with txq := s.txq ++ [b] } := by
  rw [transmit, if_neg (by simp [noErr])]

theorem awaitByte_chErr (err : s.chErr = true) (k : Byte → State → Answer) :
    awaitByte k s = .next (sessionEnd .channelError s) := by
  rw [awaitByte, if_pos err]
  rfl

theorem awaitByte_arms (noErr : s.chErr = false) (empty : s.rxq = []) (k : Byte → State → Answer) :
    awaitByte k s = .next { s with timer := true } := by
  rw [awaitByte, if_neg (by simp [noErr]), empty]

theorem awaitByte_takes (noErr : s.chErr = false) {b : Byte} {rest : List Byte} (head : s.rxq = b :: rest)
    (k : Byte → State → Answer) : awaitByte k s = k b { s with rxq := rest, timer := false } := by
  rw [awaitByte, if_neg (by simp [noErr]), head]

/-- An abort of a running operation returns to X_IDLE. -/
theorem raiseAbort_operation (op : s.xstate.inOperation = true) {c : Status} (notChannel : c ≠ .channelError) :
    raiseAbort c s =
      { s with
        status := statusCode c, busy := false, hrsp := { status := statusCode c, diag := s.diag, result := .none },
        xstate := .xIdle, timer := false } := by
  rw [raiseAbort_other notChannel, if_pos op]

theorem step_operation (noSched : s.sched = []) {x : XState} (hx : s.xstate = x) (op : x.inOperation = true) :
    step s = transferStep Config.params s := by
  rw [step_of_no_sched noSched, engineTurn_transfer (by rw [hx, op])]

/-! The action of each state of the transfer engine (R238 to R256) -/

theorem transferStep_wrCheck (p : Params) (hx : s.xstate = .wrCheck) : transferStep p s = writeCheck s := by
  rw [transferStep, hx]

theorem transferStep_wrDrain (p : Params) (hx : s.xstate = .wrDrain) : transferStep p s = drainStep s := by
  rw [transferStep, hx]

theorem transferStep_wrToken (p : Params) (hx : s.xstate = .wrToken) : transferStep p s = tokenStep p s := by
  rw [transferStep, hx]

theorem transferStep_wrSize (p : Params) (hx : s.xstate = .wrSize) : transferStep p s = sizeStep s := by
  rw [transferStep, hx]

theorem transferStep_wrSend (p : Params) (hx : s.xstate = .wrSend) : transferStep p s = sendStep s := by
  rw [transferStep, hx]

theorem transferStep_wrEcho (p : Params) (hx : s.xstate = .wrEcho) : transferStep p s = echoStep s := by
  rw [transferStep, hx]

theorem transferStep_rdInit (p : Params) (hx : s.xstate = .rdInit) : transferStep p s = readInit s := by
  rw [transferStep, hx]

theorem transferStep_rdSize (p : Params) (hx : s.xstate = .rdSize) : transferStep p s = readSizeStep s := by
  rw [transferStep, hx]

theorem transferStep_rdWait (p : Params) (hx : s.xstate = .rdWait) : transferStep p s = readWaitStep p s := by
  rw [transferStep, hx]

theorem transferStep_rdFinish (p : Params) (hx : s.xstate = .rdFinish) : transferStep p s = readFinish p s := by
  rw [transferStep, hx]

/-- Settles O55: the expiry is taken by an armed wait with nothing to take. -/
theorem timerExpiry : Obligations.TimerExpiry := by
  unfold Obligations.TimerExpiry
  intro s rest expires
  have event : step s = timerEvent { s with sched := rest } := by rw [step, turn, expires]; rfl
  rw [event]
  constructor
  · intro armed empty noErr op
    rw [timerEvent, if_pos (by simp [armed, lineEvent, noErr, empty]),
      raiseAbort_operation (s := { s with sched := rest }) op (by decide)]
    rfl
  · intro notDue
    refine if_neg ?_
    rcases notDue with off | queued | err
    · simp [off]
    · simp [lineEvent, queued]
    · simp [lineEvent, err]

/-! The write operation, state by state (R238 to R243) -/

theorem boundSource_eq {r : Nat} (bound : s.srcBind = some r) : boundSource s = .ok (Store.get s.sources r) := by
  rw [boundSource, bound]

theorem boundSink_eq {r : Nat} (bound : s.dstBind = some r) : boundSink s = .ok r := by
  rw [boundSink, bound]

theorem writeCheck_eq {r : Nat} (bound : s.srcBind = some r) :
    writeCheck s = .next (checkSource (Memory.bytes (Store.get s.sources r)) s) := by
  rw [writeCheck, boundSource_eq bound]
  rfl

/-- Settles O47: the checks of `checkSource` in their order. -/
theorem writeCheckOutcomes : Obligations.WriteCheckOutcomes := by
  unfold Obligations.WriteCheckOutcomes
  rintro s r m noSched hx bound rfl
  refine ⟨_, fun code => rfl, ?_⟩
  have abort {c : Status} (hc : c ≠ .channelError) := raiseAbort_operation (s := s) (by rw [hx]; rfl) hc
  rw [step_operation noSched hx rfl, transferStep_wrCheck _ hx, writeCheck_eq bound, checkSource,
    abort (by decide), abort (by decide), abort (by decide)]
  rfl

theorem drainStep_done (none : s.drainLeft = 0) : drainStep s = .next { s with xstate := .wrToken, tidx := 0 } := by
  rw [drainStep, none]

theorem drainStep_chErr (some : s.drainLeft ≠ 0) (err : s.chErr = true) :
    drainStep s = .next (sessionEnd .channelError s) := by
  obtain ⟨k, left⟩ := Nat.exists_eq_succ_of_ne_zero some
  rw [drainStep, left]
  exact if_pos err

theorem drainStep_discards {b : Byte} {rest : List Byte} {k : Nat} (left : s.drainLeft = k + 1)
    (noErr : s.chErr = false) (head : s.rxq = b :: rest) : drainStep s = .next { s with rxq := rest, drainLeft := k } := by
  rw [drainStep, left, head]
  exact if_neg (by simp [noErr])

theorem tokenNext_more {p : Params} (more : s.tidx.toNat + 1 < (writeToken p).length) :
    tokenNext p s = { s with tidx := s.tidx + 1 } := if_pos more

theorem tokenNext_last {p : Params} (last : ¬ s.tidx.toNat + 1 < (writeToken p).length) :
    tokenNext p s = { s with xstate := .wrSize, tidx := 0 } := if_neg last

theorem writeLoop_more (more : s.addr.toNat < s.tsize.toNat) : writeLoop s = { s with xstate := .wrSend } := if_pos more

theorem writeLoop_done (done : ¬ s.addr.toNat < s.tsize.toNat) : writeLoop s = operationExit s := if_neg done

theorem sizeStep_first (first : s.tidx = 0) :
    sizeStep s = transmit (s.tsize.extractLsb' 8 8) (fun t => .next { t with tidx := 1 }) s := if_pos first

theorem sizeStep_second (second : s.tidx ≠ 0) :
    sizeStep s = transmit (s.tsize.extractLsb' 0 8) (fun t => .next (writeLoop (csaClear t))) s := if_neg second

/-- Settles O48: the steps of the drain, the token and the size bytes. -/
theorem drainTokenAndSize : Obligations.DrainTokenAndSize := by
  unfold Obligations.DrainTokenAndSize
  intro s noSched noErr
  refine ⟨fun b rest k hx left head => ?_, fun hx none => ?_, fun b hx token => ?_, fun hx first => ?_,
    fun hx second more => ?_, fun hx second done => ?_⟩ <;>
    rw [step_operation noSched hx rfl]
  · exact (transferStep_wrDrain _ hx).trans (drainStep_discards left noErr head)
  · exact (transferStep_wrDrain _ hx).trans (drainStep_done none)
  · rw [transferStep_wrToken _ hx, tokenStep, transmit_sends noErr, List.getD_eq_getElem?_getD, token, Option.getD_some]
    split
    next more => exact congrArg _ (tokenNext_more more)
    next last => exact congrArg _ (tokenNext_last last)
  · rw [transferStep_wrSize _ hx, sizeStep_first first, transmit_sends noErr]
  · rw [transferStep_wrSize _ hx, sizeStep_second (by simp [second]), transmit_sends noErr]
    exact congrArg _ (writeLoop_more more)
  · rw [transferStep_wrSize _ hx, sizeStep_second (by simp [second]), transmit_sends noErr]
    exact congrArg _ (writeLoop_done (Nat.not_lt.2 done))

/-! The payload byte and its echo (R241 to R243) -/

/-- The checksum unit's sum after a byte is sent (R147, R241). -/
theorem feedSent_eq (a : Nat) (v : Byte) (s : State) :
    feedSent a v s =
      { s with
        csa :=
          if a < 8 then BitVec.ofNat 16 (s.csa.toNat + (if a % 2 = 0 then v.toNat * 256 else v.toNat)) else s.csa } := by
  unfold feedSent
  split
  · unfold csaFeed
    split
    · rw [csaAddHigh, addHi, BitVec.ofNat_add, BitVec.ofNat_mul, BitVec.ofNat_toNat, BitVec.ofNat_toNat,
        BitVec.setWidth_eq]
    · rw [csaAddLow, addLo, BitVec.ofNat_add, BitVec.ofNat_toNat, BitVec.ofNat_toNat, BitVec.setWidth_eq]
  · rfl

theorem sendStep_eq {r : Nat} {b : Byte} (bound : s.srcBind = some r)
    (here : Memory.read (Store.get s.sources r) (6 + s.addr.toNat) = some b) :
    sendStep s = sendByte s.addr.toNat (patchedByte s.addr.toNat b s) s := by
  rw [sendStep, boundSource_eq bound, orFault, srcByte, here]
  rfl

theorem compareEcho_same (hx : s.xstate = .wrEcho) :
    compareEcho s.lastTx s = .next (writeLoop { s with addr := s.addr + 1 }) := by
  rw [compareEcho, readLastTx, if_pos hx]
  exact if_pos rfl

theorem compareEcho_other (hx : s.xstate = .wrEcho) {e : Byte} (other : e ≠ s.lastTx) :
    compareEcho e s = .next (raiseAbort .verifyFailed s) := by
  rw [compareEcho, readLastTx, if_pos hx]
  exact if_neg other

theorem sendByte_sends (noErr : s.chErr = false) (a : Nat) (v : Byte) :
    sendByte a v s = .next { feedSent a v s with lastTx := v, txq := s.txq ++ [v], xstate := .wrEcho } := by
  have noErr' : (feedSent a v s).chErr = false := by rw [feedSent_eq, noErr]
  refine (transmit_sends (s := { feedSent a v s with lastTx := v }) noErr' _ _).trans ?_
  rw [feedSent_eq]

theorem sendByte_chErr (err : s.chErr = true) (a : Nat) (v : Byte) :
    sendByte a v s = .next (sessionEnd .channelError { feedSent a v s with lastTx := v }) := by
  have err' : (feedSent a v s).chErr = true := by rw [feedSent_eq, err]
  exact transmit_chErr (s := { feedSent a v s with lastTx := v }) err' _ _

/-- Settles O49: the byte sent, what its echo decides, and the transport errors of the write and of RD_SIZE. -/
theorem sendAndEcho : Obligations.SendAndEcho := by
  unfold Obligations.SendAndEcho
  intro s noSched
  have echo (hx : s.xstate = .wrEcho) : step s = awaitByte compareEcho s :=
    (step_operation noSched hx rfl).trans (transferStep_wrEcho _ hx)
  refine ⟨fun r b hx bound here => ?_, fun e rest hx noErr head => ⟨fun same more => ?_, fun same done => ?_,
    fun other => ?_⟩, fun hx noErr empty => ?_, fun err waits => ?_⟩
  · refine ⟨_, _, rfl, rfl, ?_⟩
    have v : patchedByte s.addr.toNat b s = if s.addr = 0 then patchId b s.scfg
        else if s.addr = 1 then (if cfgSzOvrEn s.scfg = true then cfgSzOvr s.scfg else b)
        else if s.addr = 8 ∧ cfgRecompute s.scfg = true then hi8 s.csa
        else if s.addr = 9 ∧ cfgRecompute s.scfg = true then lo8 s.csa
        else b := by
      simp only [patchedByte, patchSizeCode, ← BitVec.toNat_inj]
      rfl
    rw [step_operation noSched hx rfl, transferStep_wrSend _ hx, sendStep_eq bound here, v]
    constructor
    · intro noErr
      rw [sendByte_sends noErr, feedSent_eq]
    · intro err
      rw [sendByte_chErr err, feedSent_eq]
      rfl
  · rw [echo hx, awaitByte_takes noErr head, same]
    exact (compareEcho_same (s := { s with rxq := rest, timer := false }) hx).trans (congrArg _ (writeLoop_more more))
  · rw [echo hx, awaitByte_takes noErr head, same]
    exact (compareEcho_same (s := { s with rxq := rest, timer := false }) hx).trans
      (congrArg _ (writeLoop_done (Nat.not_lt.2 done)))
  · rw [echo hx, awaitByte_takes noErr head]
    refine (compareEcho_other (s := { s with rxq := rest, timer := false }) hx other).trans (congrArg _ ?_)
    exact raiseAbort_operation (by simp [hx, XState.inOperation]) (by decide)
  · exact (echo hx).trans (awaitByte_arms noErr empty _)
  · rcases waits with hx | hx | hx | hx | ⟨hx, left⟩ <;> rw [step_operation noSched hx rfl]
    · exact (transferStep_wrEcho _ hx).trans (awaitByte_chErr err _)
    · exact (transferStep_rdSize _ hx).trans (awaitByte_chErr err _)
    · exact (transferStep_wrToken _ hx).trans (transmit_chErr err _ _)
    · rw [transferStep_wrSize _ hx]
      by_cases first : s.tidx = 0
      · exact (sizeStep_first first).trans (transmit_chErr err _ _)
      · exact (sizeStep_second first).trans (transmit_chErr err _ _)
    · exact (transferStep_wrDrain _ hx).trans (drainStep_chErr left err)

end

end Sys2Proof.Machine

namespace Sys2Proof.Machine

section
variable {s t : State}

/-! Sinks after a write (R63) -/

theorem sinkOf_setSink (hw : Store.wf s.sinks = true) (r : Nat) (m : Memory) : sinkOf (setSink r m s) r = m :=
  store_get_set hw m

theorem sinkOf_setSink_other {r q : Nat} (other : q ≠ r) (m : Memory) : sinkOf (setSink r m s) q = sinkOf s q :=
  store_get_set_other _ _ _ _ other

/-! The read operation, state by state (R248 to R256) -/

theorem readInit_eq {r : Nat} (bound : s.dstBind = some r) :
    readInit s =
      .next { appendSink r readPrefix (setSink r [] s) with xstate := .rdSize, tidx := 0, rdSizeBytes := [] } := by
  rw [readInit, boundSink_eq bound]
  rfl

/-- RD_INIT leaves the six bytes R248 appends, and no more, in the sink, whatever it held. -/
theorem readInit_sink (hw : Store.wf s.sinks = true) (r : Nat) :
    sinkOf (appendSink r readPrefix (setSink r [] s)) r = Memory.ofBytes readPrefix := by
  have cleared : sinkOf (setSink r [] s) r = Memory.ofBytes [] := sinkOf_setSink hw r []
  have wf : Store.wf (setSink r [] s).sinks = true := setSink_wf s r [] hw rfl
  rw [appendSink, sinkOf_setSink wf, cleared, appendAll_ofBytes]
  rfl

theorem takeSizeByte_more (few : s.rdSizeBytes.length < 2) (b : Byte) :
    takeSizeByte b s = .next { s with rdSizeBytes := s.rdSizeBytes ++ [b], tidx := s.tidx + 1 } := by
  unfold takeSizeByte
  split
  next two => simp [two] at few
  next => rfl

theorem takeSizeByte_last {r0 r1 : Byte} (two : s.rdSizeBytes = [r0, r1]) (b : Byte) :
    takeSizeByte b s = .next { s with rdSizeBytes := [r0, r1, b], tsize := be24 r0 r1 b, xstate := .rdWait } := by
  rw [takeSizeByte, two]

/-- Settles O51: what RD_INIT leaves in the sink, and the three size bytes. -/
theorem readPrefixAndSizeBytes : Obligations.ReadPrefixAndSizeBytes := by
  unfold Obligations.ReadPrefixAndSizeBytes
  intro s noSched
  have size (hx : s.xstate = .rdSize) : step s = awaitByte takeSizeByte s :=
    (step_operation noSched hx rfl).trans (transferStep_rdSize _ hx)
  refine ⟨fun r hx bound hw => ?_, fun b rest hx noErr head => ⟨fun few => ?_, fun r0 r1 two => ?_⟩,
    fun hx noErr empty => ?_⟩
  · rw [step_operation noSched hx rfl, transferStep_rdInit _ hx, readInit_eq bound]
    refine ⟨_, rfl, rfl, congrArg Memory.bytes (readInit_sink hw r), fun q i other => congrArg (Memory.read · i) ?_⟩
    exact (appendSink_other (setSink r [] s) r q _ other).trans (sinkOf_setSink_other other _)
  · rw [size hx, awaitByte_takes noErr head]
    exact takeSizeByte_more (s := { s with rxq := rest, timer := false }) few b
  · rw [size hx, awaitByte_takes noErr head]
    exact takeSizeByte_last (s := { s with rxq := rest, timer := false }) two b
  · exact (size hx).trans (awaitByte_arms noErr empty _)

/-! The payload loop -/

theorem stopBefore_iff (p : Params) (s : State) :
    stopBefore p s = true ↔
      cfgTermMode s.scfg = false ∧ min (cfgTargetLen s.scfg).toNat s.tsize.toNat ≤ s.addr.toNat ∨
      cfgTermMode s.scfg = true ∧ p.sentinelBounded = true ∧ s.tsize.toNat ≤ s.addr.toNat := by
  unfold stopBefore
  split
  next sentinel => simp [sentinel]
  next fixed => simp [fixed]

theorem atCeiling_iff (s : State) : atCeiling s = true ↔ cfgTermMode s.scfg = true ∧ s.addr = 0xFFFFFF#24 := by
  simp [atCeiling]

theorem readWaitStep_stops (p : Params) (none : s.rdPending = none) (stop : stopBefore p s = true) :
    readWaitStep p s = .next { s with xstate := .rdFinish } := by
  rw [readWaitStep, none]
  exact if_pos stop

theorem readWaitStep_ceiling (p : Params) (none : s.rdPending = none) (goesOn : ¬ stopBefore p s = true)
    (ceiling : atCeiling s = true) : readWaitStep p s = .next (raiseAbort .packTooLarge s) := by
  rw [readWaitStep, none]
  exact (if_neg goesOn).trans (if_pos ceiling)

theorem readWaitStep_awaits (p : Params) (none : s.rdPending = none) (goesOn : ¬ stopBefore p s = true)
    (below : ¬ atCeiling s = true) :
    readWaitStep p s = awaitByte (fun q t => .next { t with rdPending := some q }) s := by
  rw [readWaitStep, none]
  exact (if_neg goesOn).trans (if_neg below)

theorem readWaitStep_echoes (p : Params) {q : Byte} (held : s.rdPending = some q) :
    readWaitStep p s = echoPayload p q s := by
  rw [readWaitStep, held]

theorem echoPayload_stores (p : Params) {r : Nat} (bound : s.dstBind = some r) (noErr : s.chErr = false) (q : Byte) :
    echoPayload p q s = .next (storePayload p q r { s with txq := s.txq ++ [q] }) := by
  rw [echoPayload, boundSink_eq bound, orFault, if_neg (by simp [noErr]), transmit_sends noErr]

theorem echoPayload_chErr (p : Params) {r : Nat} (bound : s.dstBind = some r) (err : s.chErr = true) (q : Byte) :
    echoPayload p q s = .next (abortKeeping q r s) := by
  rw [echoPayload, boundSink_eq bound, orFault, if_pos err]

/-- FFRUN after a payload byte: it saturates at 255 (R252). -/
def runAfter (q run : Byte) : Byte := if q = 0xFF#8 then BitVec.ofNat 8 (min 255 (run.toNat + 1)) else 0

theorem readAdvance_eq (q : Byte) (s : State) :
    readAdvance q s = { s with addr := s.addr + 1, ffrun := runAfter q s.ffrun } := by
  have saturates : (if s.ffrun.toNat < 255 then s.ffrun + 1 else s.ffrun) =
      BitVec.ofNat 8 (min 255 (s.ffrun.toNat + 1)) := by
    apply BitVec.eq_of_toNat_eq
    have := s.ffrun.isLt
    split
    next room => rw [BitVec.toNat_add, BitVec.toNat_ofNat, Nat.min_eq_right (by omega)]; rfl
    next full => rw [BitVec.toNat_ofNat, Nat.min_eq_left (by omega)]; omega
  rw [readAdvance, saturates]
  rfl

/-- The retraction of the end of a capture (R254). -/
def retracts (p : Params) (q : Byte) (s : State) : Prop :=
  cfgTermMode s.scfg = true ∧ runAfter q s.ffrun = numFfChk p

/-- A payload byte sent back: the sink, FFRUN, ADDR and the end of the capture. -/
theorem storePayload_ends {p : Params} {q : Byte} (ends : retracts p q s) (r : Nat) :
    storePayload p q r s =
      { appendSink r [q] s with
        rdPending := none, ffrun := runAfter q s.ffrun, addr := s.addr + 1 - (numFfChk p - 1).zeroExtend 24,
        xstate := .rdFinish } := by
  rw [storePayload, readAdvance_eq]
  exact if_pos ends

theorem storePayload_goesOn {p : Params} {q : Byte} (goesOn : ¬ retracts p q s) (r : Nat) :
    storePayload p q r s =
      { appendSink r [q] s with rdPending := none, ffrun := runAfter q s.ffrun, addr := s.addr + 1 } := by
  rw [storePayload, readAdvance_eq]
  exact if_neg goesOn

/-- The sink's bytes after RD_FINISH has patched the size field and removed the surplus (R256). -/
def finishedBytes (p : Params) (addr : BitVec 24) (bs : List Byte) : List Byte :=
  if p.truncateOnRetract = true then (bs.take 3 ++ bytes24 addr ++ bs.drop 6).take (6 + addr.toNat)
  else bs.take 3 ++ bytes24 addr ++ bs.drop 6

theorem patchSizeField_ofBytes (p : Params) {addr : BitVec 24} {bs : List Byte} (long : 6 + addr.toNat ≤ bs.length) :
    patchSizeField p addr (Memory.ofBytes bs) = some (Memory.ofBytes (finishedBytes p addr bs)) := by
  have three : (bytes24 addr).length = 3 := rfl
  rw [patchSizeField, writeAll_ofBytes _ _ _ (by omega), finishedBytes]
  simp only [three]
  split
  · refine truncate_ofBytes _ _ ?_
    simp [three]
    omega
  · rfl

theorem readFinish_eq (p : Params) {r : Nat} (bound : s.dstBind = some r) (hw : Store.wf s.sinks = true)
    (long : 6 + s.addr.toNat ≤ (sinkOf s r).length) :
    readFinish p s =
      .next (operationExit (setSink r (Memory.ofBytes (finishedBytes p s.addr (Memory.bytes (sinkOf s r)))) s)) := by
  have bytes : sinkOf s r = Memory.ofBytes (Memory.bytes (sinkOf s r)) := (wf_iff _).1 (store_get_wf hw)
  have patched := patchSizeField_ofBytes p (addr := s.addr) (bs := Memory.bytes (sinkOf s r))
    (by simpa [Memory.bytes] using long)
  rw [← bytes] at patched
  rw [readFinish, boundSink_eq bound, orFault, patched]

end

/-- Settles O52: the payload loop's actions, each with what it does to the sink. -/
theorem readPayloadSteps : Obligations.ReadPayloadSteps := by
  unfold Obligations.ReadPayloadSteps
  intro s r noSched bound hw
  have wait (hx : s.xstate = .rdWait) : step s = readWaitStep Config.params s :=
    (step_operation noSched hx rfl).trans (transferStep_rdWait _ hx)
  refine ⟨fun hx none => ⟨_, rfl, ?_⟩, fun q hx held err => ?_, fun q hx held noErr => ?_, fun hx long => ?_⟩
  · rw [wait hx]
    by_cases stop : stopBefore Config.params s = true
    · rw [readWaitStep_stops _ none stop, if_pos ((stopBefore_iff _ s).1 stop)]
    · rw [if_neg fun h => stop ((stopBefore_iff _ s).2 h)]
      by_cases ceiling : atCeiling s = true
      · rw [readWaitStep_ceiling _ none stop ceiling, if_pos ((atCeiling_iff s).1 ceiling),
          raiseAbort_operation (by rw [hx]; rfl) (by decide)]
        rfl
      · rw [if_neg fun h => ceiling ((atCeiling_iff s).2 h), readWaitStep_awaits _ none stop ceiling]
        by_cases err : s.chErr = true
        · rw [if_pos err, awaitByte_chErr err]
          rfl
        · rw [if_neg err]
          have noErr : s.chErr = false := by simpa using err
          split
          next queue => exact awaitByte_arms noErr queue _
          next q rest queue => exact awaitByte_takes noErr queue _
  · rw [wait hx, readWaitStep_echoes _ held, echoPayload_chErr _ bound err]
    exact ⟨_, rfl, rfl, appendSink_bytes s r [q] hw, fun k i old => appendSink_read s [q] hw old⟩
  · rw [wait hx, readWaitStep_echoes _ held, echoPayload_stores _ bound noErr]
    by_cases ends : retracts Config.params q s
    · rw [storePayload_ends (s := { s with txq := s.txq ++ [q] }) ends]
      refine ⟨_, runAfter q s.ffrun, rfl, rfl, ?_, appendSink_bytes s r [q] hw,
        fun k i old => appendSink_read s [q] hw old⟩
      rw [if_pos (show _ ∧ _ from ends), if_pos (show _ ∧ _ from ends)]
      rfl
    · rw [storePayload_goesOn (s := { s with txq := s.txq ++ [q] }) ends]
      refine ⟨_, runAfter q s.ffrun, rfl, rfl, ?_, appendSink_bytes s r [q] hw,
        fun k i old => appendSink_read s [q] hw old⟩
      rw [if_neg (show ¬ (_ ∧ _) from ends), if_neg (show ¬ (_ ∧ _) from ends), ← hx]
      rfl
  · rw [step_operation noSched hx rfl, transferStep_rdFinish _ hx, readFinish_eq _ bound hw long]
    refine ⟨_, rfl, rfl, ?_, fun k i other => congrArg (Memory.read · i) (sinkOf_setSink_other other _)⟩
    exact (congrArg Memory.bytes (sinkOf_setSink hw r _)).trans (bytes_ofBytes _)

end Sys2Proof.Machine

namespace Sys2Proof.Machine

/-! What a transfer operation leaves alone (R259, R274) -/

/-- Only the transfer engine's registers, CSA, the answer registers and the bound sink may differ. -/
structure TransferOnly (s t : State) : Prop where
  frame : t = { s with
    csa := t.csa, status := t.status, busy := t.busy, xstate := t.xstate, addr := t.addr, tsize := t.tsize, tidx := t.tidx,
    lastTx := t.lastTx, ffrun := t.ffrun, linebuf := t.linebuf, lineOvf := t.lineOvf, srcBind := t.srcBind,
    dstBind := t.dstBind, timer := t.timer, drainLeft := t.drainLeft, rdSizeBytes := t.rdSizeBytes,
    rdPending := t.rdPending, chOpen := t.chOpen, rxq := t.rxq, txq := t.txq, sinks := t.sinks, hrsp := t.hrsp }
  sinks : ∀ r, s.dstBind ≠ some r → sinkOf t r = sinkOf s r

section
variable {s t u : State}

theorem transferOnly_refl (s : State) : TransferOnly s s := ⟨rfl, fun _ _ => rfl⟩

theorem TransferOnly.sessionEnded (h : TransferOnly s u) (c : Status) : TransferOnly s (sessionEnd c u) :=
  ⟨by rw [h.frame]; rfl, h.sinks⟩

theorem TransferOnly.exited (h : TransferOnly s u) : TransferOnly s (operationExit u) :=
  ⟨by rw [h.frame]; rfl, h.sinks⟩

theorem TransferOnly.aborted (h : TransferOnly s u) (c : Status) : TransferOnly s (raiseAbort c u) := by
  unfold raiseAbort
  split
  · exact h.sessionEnded _
  · exact ⟨by rw [h.frame]; rfl, h.sinks⟩

theorem TransferOnly.sent (h : TransferOnly s u) {b : Byte} {k : State → Answer}
    (goesOn : ∀ v, TransferOnly s v → k v = .next t → TransferOnly s t) (ht : transmit b k u = .next t) :
    TransferOnly s t := by
  rcases transmit_next ht with ⟨-, rfl⟩ | ⟨-, hk⟩
  · exact h.sessionEnded _
  · exact goesOn { u with txq := u.txq ++ [b] } ⟨by rw [h.frame], h.sinks⟩ hk

theorem TransferOnly.awaited (h : TransferOnly s u) {k : Byte → State → Answer}
    (goesOn : ∀ b v, TransferOnly s v → k b v = .next t → TransferOnly s t) (ht : awaitByte k u = .next t) :
    TransferOnly s t := by
  rcases awaitByte_next ht with ⟨-, rfl⟩ | ⟨-, -, rfl⟩ | ⟨-, b, rest, -, hk⟩
  · exact h.sessionEnded _
  · exact ⟨by rw [h.frame], h.sinks⟩
  · exact goesOn b { u with rxq := rest, timer := false } ⟨by rw [h.frame], h.sinks⟩ hk

theorem TransferOnly.looped (h : TransferOnly s u) : TransferOnly s (writeLoop u) := by
  unfold writeLoop
  split
  · exact ⟨by rw [h.frame], h.sinks⟩
  · exact h.exited

theorem checkSource_only (src : List Byte) (s : State) : TransferOnly s (checkSource src s) := by
  have same := transferOnly_refl s
  unfold checkSource
  split
  · exact same.aborted _
  split
  · exact same.aborted _
  split
  · exact same.aborted _
  · exact ⟨rfl, same.sinks⟩

theorem drainStep_only (h : drainStep s = .next t) : TransferOnly s t := by
  unfold drainStep at h
  split at h
  · obtain rfl := Host.Outcome.next.inj h
    exact ⟨rfl, fun _ _ => rfl⟩
  split at h
  · obtain rfl := Host.Outcome.next.inj h
    exact (transferOnly_refl s).aborted _
  split at h
  · cases h
  · obtain rfl := Host.Outcome.next.inj h
    exact ⟨rfl, fun _ _ => rfl⟩

theorem tokenStep_only {p : Params} (h : tokenStep p s = .next t) : TransferOnly s t := by
  refine (transferOnly_refl s).sent (fun v same hv => ?_) h
  obtain rfl := Host.Outcome.next.inj hv
  unfold tokenNext
  split <;> exact ⟨by rw [same.frame], same.sinks⟩

theorem sizeStep_only (h : sizeStep s = .next t) : TransferOnly s t := by
  by_cases first : s.tidx = 0
  · rw [sizeStep_first first] at h
    refine (transferOnly_refl s).sent (fun v same hv => ?_) h
    obtain rfl := Host.Outcome.next.inj hv
    exact ⟨by rw [same.frame], same.sinks⟩
  · rw [sizeStep_second first] at h
    refine (transferOnly_refl s).sent (fun v same hv => ?_) h
    obtain rfl := Host.Outcome.next.inj hv
    have cleared : TransferOnly s (csaClear v) := ⟨by rw [same.frame]; rfl, same.sinks⟩
    exact cleared.looped

theorem sendStep_only (h : sendStep s = .next t) : TransferOnly s t := by
  obtain ⟨m, -, h⟩ := orFault_next.1 h
  obtain ⟨b, -, h⟩ := orFault_next.1 h
  have fed (a : Nat) (v : Byte) : TransferOnly s { feedSent a v s with lastTx := v } := by
    rw [feedSent_eq]
    exact ⟨rfl, fun _ _ => rfl⟩
  refine (fed _ _).sent (fun v same hv => ?_) h
  obtain rfl := Host.Outcome.next.inj hv
  exact ⟨by rw [same.frame], same.sinks⟩

theorem echoStep_only (h : echoStep s = .next t) : TransferOnly s t := by
  refine (transferOnly_refl s).awaited (fun b v same hv => ?_) h
  obtain ⟨last, -, hv⟩ := orFault_next.1 hv
  split at hv
  · obtain rfl := Host.Outcome.next.inj hv
    have advanced : TransferOnly s { v with addr := v.addr + 1 } := ⟨by rw [same.frame], same.sinks⟩
    exact advanced.looped
  · obtain rfl := Host.Outcome.next.inj hv
    exact same.aborted _

theorem boundSink_ok {r : Nat} (h : boundSink s = .ok r) : s.dstBind = some r := by
  unfold boundSink at h
  split at h
  next q bound => rw [bound, Except.ok.inj h]
  next => cases h

theorem readInit_only (h : readInit s = .next t) : TransferOnly s t := by
  obtain ⟨r, bound, h⟩ := orFault_next.1 h
  obtain rfl := Host.Outcome.next.inj h
  refine ⟨rfl, fun q unbound => ?_⟩
  have other : q ≠ r := fun e => unbound (by rw [boundSink_ok bound, e])
  exact (appendSink_other (setSink r [] s) r q _ other).trans (sinkOf_setSink_other other _)

theorem readSizeStep_only (h : readSizeStep s = .next t) : TransferOnly s t := by
  refine (transferOnly_refl s).awaited (fun b v same hv => ?_) h
  unfold takeSizeByte at hv
  split at hv <;>
    obtain rfl := Host.Outcome.next.inj hv <;>
    exact ⟨by rw [same.frame], same.sinks⟩

theorem readWaitStep_only {p : Params} (h : readWaitStep p s = .next t) : TransferOnly s t := by
  unfold readWaitStep at h
  split at h
  next q held =>
    obtain ⟨r, bound, ⟨-, rfl⟩ | ⟨-, rfl⟩⟩ := echoPayload_next h
    · have kept : TransferOnly s (appendSink r [q] { s with rdPending := none }) :=
        ⟨rfl, fun k unbound => appendSink_other _ r k _ fun e => unbound (by rw [bound, e])⟩
      exact kept.sessionEnded _
    · refine ⟨?_, fun k unbound => ?_⟩
      · unfold storePayload stopAfter
        split <;> rfl
      · rw [sinkOf, storePayload_sinks]
        exact appendSink_other _ r k _ fun e => unbound (by rw [bound, e])
  split at h
  · obtain rfl := Host.Outcome.next.inj h
    exact ⟨rfl, fun _ _ => rfl⟩
  split at h
  · obtain rfl := Host.Outcome.next.inj h
    exact (transferOnly_refl s).aborted _
  · refine (transferOnly_refl s).awaited (fun b v same hv => ?_) h
    obtain rfl := Host.Outcome.next.inj hv
    exact ⟨by rw [same.frame], same.sinks⟩

theorem readFinish_only {p : Params} (h : readFinish p s = .next t) : TransferOnly s t := by
  obtain ⟨r, bound, h⟩ := orFault_next.1 h
  split at h
  · cases h
  next m patched =>
    obtain rfl := Host.Outcome.next.inj h
    have written : TransferOnly s (setSink r m s) :=
      ⟨rfl, fun k unbound => sinkOf_setSink_other (fun e => unbound (by rw [boundSink_ok bound, e])) _⟩
    exact written.exited

/-- A step of an operation, by its state. -/
theorem transferStep_only {p : Params} (h : transferStep p s = .next t) : TransferOnly s t := by
  cases hx : s.xstate with
  | xClosed | xIdle =>
    rw [transferStep, hx] at h
    obtain rfl := Host.Outcome.next.inj h
    exact transferOnly_refl s
  | wrCheck =>
    rw [transferStep_wrCheck _ hx] at h
    obtain ⟨m, -, h⟩ := orFault_next.1 h
    obtain rfl := Host.Outcome.next.inj h
    exact checkSource_only _ s
  | wrDrain => exact drainStep_only ((transferStep_wrDrain p hx).symm.trans h)
  | wrToken => exact tokenStep_only ((transferStep_wrToken p hx).symm.trans h)
  | wrSize => exact sizeStep_only ((transferStep_wrSize p hx).symm.trans h)
  | wrSend => exact sendStep_only ((transferStep_wrSend p hx).symm.trans h)
  | wrEcho => exact echoStep_only ((transferStep_wrEcho p hx).symm.trans h)
  | rdInit => exact readInit_only ((transferStep_rdInit p hx).symm.trans h)
  | rdSize => exact readSizeStep_only ((transferStep_rdSize p hx).symm.trans h)
  | rdWait => exact readWaitStep_only ((transferStep_rdWait p hx).symm.trans h)
  | rdFinish => exact readFinish_only ((transferStep_rdFinish p hx).symm.trans h)

end

/-- Settles O46: `transferStep_only`, read field by field. -/
theorem transferLeavesCodec : Obligations.TransferLeavesCodec := by
  unfold Obligations.TransferLeavesCodec
  intro s t op noSched h
  rw [step_of_no_sched noSched, engineTurn_transfer op] at h
  obtain ⟨frame, sinks⟩ := transferStep_only h
  have others : ∀ r i, s.dstBind ≠ some r → Memory.read (sinkOf t r) i = Memory.read (sinkOf s r) i :=
    fun r i unbound => by rw [sinks r unbound]
  rw [frame]
  rw [frame] at others
  exact ⟨rfl, rfl, rfl, rfl, rfl, rfl, rfl, rfl, rfl, rfl, rfl, rfl, rfl, rfl, rfl, rfl, others⟩

end Sys2Proof.Machine

namespace Sys2Proof.Machine

section
variable {p : Params} {s t : State}

/-! Turns of OPKFE in which no operation runs keep the invariant -/

/-- The operands of a host command that a codec command is not. -/
theorem Base.session_total (b : Base p s) (idle : s.busy = false) (off : s.timer = false) {i : Instr}
    (host : isHostCommand i = true) (notCodec : ¬ isCodecCommand i = true) : ∃ t, exec i s = .next t ∧ Inv p t := by
  have rest := b.rest_of_idle idle
  have stopped := b.stopped (.inl idle)
  have refused (c : Status) (hc : statusWritable c = true) : Inv p (answered s (statusCode c) .none) :=
    b.inv_answered idle off (answered_refused s hc)
  have starts {cfg : BitVec 40} (legal : cfgLegal cfg = true) (opened : s.xstate = .xIdle) :
      Inv p (writeOperation { accept s with scfg := cfg }) ∧ Inv p (readOperation { accept s with scfg := cfg }) := by
    have bt : Base p { s with diag := 0, scfg := cfg } :=
      { b with diagReserved := BitVec.extractLsb'_zero, scfgOk := legal }
    exact bt.inv_start idle opened
  cases i with
  | sessionOpen src dst cfg =>
    rw [exec_sessionOpen]
    refine hostCommand_total idle refused fun closed _ legal => ?_
    by_cases err : s.chErr = true
    · exact ⟨_, if_pos err, b.inv_answered idle off (answered_refused s (c := .channelError) rfl)⟩
    · refine ⟨_, if_neg err, ?_⟩
      have bt : Base p (finish .ok .none { accept s with
          srcBind := some src, dstBind := some dst, scfg := cfg, chOpen := true, linebuf := [], lineOvf := false,
          xstate := .xIdle }) :=
        { b with
          diagReserved := BitVec.extractLsb'_zero
          statusWritten := ⟨.ok, rfl, rfl⟩
          scfgOk := legal
          openSession := rfl
          srcBound := rfl
          dstBound := rfl
          operationBusy := nofun
          lineBound := Nat.zero_le _
          lineIdle := fun h => absurd rfl h
          walkBusy := fun hw => absurd hw stopped
          decodeRuns := nofun }
      exact bt.inv_of_rest rfl off
  | sessionClose =>
    rw [exec_sessionClose]
    refine hostCommand_total idle refused fun opened _ _ => ⟨_, rfl, ?_⟩
    have regs : RegsInv (accept s) := { b with diagReserved := BitVec.extractLsb'_zero }
    have walk : WalkInv (accept s) := { b with }
    exact Machine.inv_sessionEnd regs walk stopped (c := .ok) rfl
  | startWrite cfg =>
    rw [exec_startWrite]
    exact hostCommand_total idle refused fun opened _ legal => ⟨_, rfl, (starts legal (beq_iff_eq.1 opened)).1⟩
  | startRead cfg =>
    rw [exec_startRead]
    exact hostCommand_total idle refused fun opened _ legal => ⟨_, rfl, (starts legal (beq_iff_eq.1 opened)).2⟩
  | decode | encode | frameEnc | frameClassify | hdrParse | csum | csumCheck | hdrPatch => exact absurd rfl notCodec
  | _ => cases host

/-- Every host command taken is performed or refused. -/
theorem Base.host_total (b : Base p s) (idle : s.busy = false) (off : s.timer = false) {i : Instr}
    (host : isHostCommand i = true) : ∃ t, exec i s = .next t ∧ Inv p t := by
  by_cases codec : isCodecCommand i = true
  · by_cases isDecode : ∃ src, i = .decode src
    · obtain ⟨src, rfl⟩ := isDecode
      exact b.decode_total idle off src
    · obtain ⟨t, h, answered⟩ := codec_answered idle (b.rest_of_idle idle) codec fun src e => isDecode ⟨src, e⟩
      exact ⟨t, h, b.inv_answered idle off answered⟩
  · exact b.session_total idle off host codec

theorem decodeHost_host {c : HostCmd} {i : Instr} (h : decode (.host c) = .ok i) : isHostCommand i = true := by
  rw [decode, decodeHost] at h
  split at h <;> cases h <;> rfl

/-- A command taken from HCMD is performed, refused as unassigned, or awaited. -/
theorem Base.command_total (b : Base Config.params s) (idle : s.busy = false) (off : s.timer = false)
    (noLine : nextAction s = nextCommand s) : ∃ t, engineTurn s = .next t ∧ Inv Config.params t := by
  have taken (rest : List HostCmd) : Base Config.params { s with hcmd := rest } := { b with }
  cases head : s.hcmd with
  | nil =>
    refine ⟨s, ?_, b.inv_of_rest (b.rest_of_idle idle) off⟩
    rw [engineTurn, noLine, nextCommand, head]
  | cons c rest =>
    cases hd : decode (.host c) with
    | ok i =>
      have performs : engineTurn s = exec i { s with hcmd := rest } := by
        rw [engineTurn, noLine, nextCommand_decoded head hd]
      rw [performs]
      exact (taken rest).host_total idle off (decodeHost_host hd)
    | error e =>
      refine ⟨refuse .badCommand { s with hcmd := rest }, ?_, ?_⟩
      · rw [engineTurn, noLine, nextCommand_unassigned head hd]
      · exact (taken rest).inv_answered idle off (answered_refused _ (c := .badCommand) rfl)

/-! The recogniser -/

theorem Base.inv_clearLine (b : Base p s) (idle : s.busy = false) (off : s.timer = false) : Inv p (clearLine s) := by
  have bt : Base p (clearLine s) := { b with lineBound := Nat.zero_le _, lineIdle := fun _ => ⟨rfl, rfl⟩ }
  exact bt.inv_of_rest (b.rest_of_idle idle) off

theorem Base.inv_lineAppend (b : Base p s) (idle : s.busy = false) (opened : s.xstate = .xIdle) (off : s.timer = false)
    (c : Byte) : Inv p (lineAppend p c s) := by
  have rest := b.rest_of_idle idle
  unfold lineAppend
  split
  next short =>
    have bt : Base p { s with linebuf := s.linebuf ++ [c] } :=
      { b with
        lineBound := by simpa using short
        lineIdle := fun h => absurd opened h }
    exact bt.inv_of_rest rest off
  · have bt : Base p { s with lineOvf := true } := { b with lineIdle := fun h => absurd opened h }
    exact bt.inv_of_rest rest off

theorem Base.inv_dispatchLine (b : Base p s) (idle : s.busy = false) (opened : s.xstate = .xIdle)
    (off : s.timer = false) (line : List Byte) : Inv p (dispatchLine line s) := by
  rw [dispatchLine_eq]
  split
  · exact (b.inv_start idle opened).1
  split
  · exact (b.inv_start idle opened).2
  split
  · exact b.inv_sessionEnd (.inl idle) rfl
  · exact b.inv_of_rest (b.rest_of_idle idle) off

theorem Base.lineStep_total (b : Base Config.params s) (idle : s.busy = false) (opened : s.xstate = .xIdle)
    (off : s.timer = false) : ∃ t, exec .lineStep s = .next t ∧ Inv Config.params t := by
  rw [exec_lineStep opened idle]
  by_cases err : s.chErr = true
  · exact ⟨_, recogniserStep_chErr _ err, b.inv_sessionEnd (.inl idle) rfl⟩
  have noErr : s.chErr = false := by simpa using err
  cases head : s.rxq with
  | nil => exact ⟨_, recogniserStep_empty _ noErr head, b.inv_of_rest (b.rest_of_idle idle) off⟩
  | cons c rest =>
    refine ⟨_, recogniserStep_byte _ noErr head, ?_⟩
    have bt : Base Config.params { s with rxq := rest } := { b with }
    by_cases feed : c = 0x0A#8
    · subst feed
      by_cases ovf : s.lineOvf = true
      · rw [lineByte_overflowed (s := { s with rxq := rest }) _ ovf]
        exact bt.inv_clearLine idle off
      · rw [lineByte_line (s := { s with rxq := rest }) _ (by simpa using ovf)]
        exact (bt.inv_clearLine idle off).base.inv_dispatchLine idle opened off _
    · rw [lineByte_other _ feed]
      exact bt.inv_lineAppend idle opened off c

/-! The steps of a DECODE -/

theorem Base.header_total (b : Base p s) (busy : s.busy = true) (rest : s.xstate.inOperation = false)
    (off : s.timer = false) (hw : s.wstate = .wHeader) : ∃ t, decodeHeader p s = .next t ∧ Inv p t := by
  obtain ⟨ten, fits⟩ := b.container (by rw [hw]; decide)
  have hi := imgBytes_eq (a := 0) (n := 10) b.srcWf (by omega) fits
  obtain ⟨recs, reg⟩ := b.walkHead (by rw [hw]; rfl)
  refine ⟨_, decodeHeader_eq p hi, ?_⟩
  have length := imgBytes_length hi
  generalize ((Memory.bytes s.src).drop (6 + 0)).take 10 = h at length
  have started {u : State} (diag : u.diag.extractLsb' 4 4 = 0#4)
      (frame : u = { s with
        hdr := h, cur := 0x0A, wstate := .wRecords, csa := u.csa, csMatch := u.csMatch, diag := u.diag }) :
      Inv p u := by
    have noEnd : s.endValid = false := by rw [b.endOnly, hw]; rfl
    have bt : Base p u := by
      rw [frame]
      exact { b with
        hdrTen := length
        diagReserved := diag
        container := fun _ => ⟨ten, fits⟩
        endOnly := noEnd
        walkHead := nofun
        walkBounds := fun _ => ⟨Nat.le_refl 10, ten⟩
        contiguous := fun _ => by
          simp only [recs]
          rfl
        terminalEnd := nofun
        terminalSize := nofun
        terminalTrunc := nofun
        registryWf := by
          simp only [reg]
          nofun
        walkBusy := fun _ => ⟨busy, rest⟩
        decodeRuns := nofun }
    refine bt.inv_of_rest ?_ ?_ <;> rw [frame]
    · exact rest
    · exact off
  split
  · exact started b.diagReserved rfl
  · refine started ?_ rfl
    simp only
    split
    · exact b.diagReserved
    · exact diag_or_reserved b.diagReserved rfl

theorem Base.walk_total (b : Base Config.params s) (rest : s.xstate.inOperation = false)
    (off : s.timer = false) (hw : s.wstate = .wRecords) : ∃ t, exec .walkStep s = .next t ∧ Inv Config.params t := by
  obtain ⟨-, fits⟩ := b.container (by rw [hw]; decide)
  obtain ⟨-, high⟩ := b.walkBounds (by rw [hw]; rfl)
  obtain ⟨t, h⟩ := walkStep_next (p := Config.params) hw b.srcWf fits high
  refine ⟨t, h, (b.walkStep h).inv_of_rest ?_ ?_⟩ <;> rw [walkStep_frame h]
  · exact rest
  · exact off

theorem Base.result_total (b : Base p s) (rest : s.xstate.inOperation = false) (off : s.timer = false)
    (terminal : s.wstate = .wEnd ∨ s.wstate = .wSize ∨ s.wstate = .wTrunc) :
    ∃ t, decodeResult p s = .next t ∧ Inv p t := by
  have notIdle : s.wstate ≠ .wIdle := by rcases terminal with hw | hw | hw <;> rw [hw] <;> decide
  have walked : s.wstate.walked = true := by rcases terminal with hw | hw | hw <;> rw [hw] <;> rfl
  have stopped : ¬ (s.wstate = .wHeader ∨ s.wstate = .wRecords) := by
    rcases terminal with hw | hw | hw <;> rw [hw] <;> decide
  obtain ⟨-, fits⟩ := b.container notIdle
  obtain ⟨-, high⟩ := b.walkBounds walked
  have tail := imgBytes_eq b.srcWf (Nat.le_of_eq (Nat.add_sub_cancel' high)) fits
  have ended : s.wstate = .wEnd → s.endValid = true := fun hw => by rw [b.endOnly, hw]; rfl
  have answers : ∃ r, decodeResult p s = .next (finish .ok r s) := by
    rw [decodeResult, tail, packEndAddr_eq ended]
    exact ⟨_, rfl⟩
  obtain ⟨r, h⟩ := answers
  exact ⟨_, h, (b.finished stopped rest (c := .ok) rfl r).inv_of_rest rest off⟩

/-- Where no operation runs, OPKFE's turn answers a next state and keeps the invariant. -/
theorem Base.rest_total (b : Base Config.params s) (rest : s.xstate.inOperation = false) (off : s.timer = false) :
    ∃ t, engineTurn s = .next t ∧ Inv Config.params t := by
  by_cases busy : s.busy = true
  · cases hw : s.wstate with
    | wIdle => exact absurd hw (b.decodeRuns busy rest)
    | wHeader =>
      rw [engineTurn_header rest busy hw]
      exact b.header_total busy rest off hw
    | wRecords =>
      rw [engineTurn_walk rest busy hw]
      exact b.walk_total rest off hw
    | wEnd | wSize | wTrunc =>
      rw [engineTurn_result rest busy (by rw [hw]; decide)]
      exact b.result_total rest off (by rw [hw]; decide)
  · have idle : s.busy = false := by simpa using busy
    by_cases quiet : s.xstate = .xClosed ∨ lineEvent s = false
    · exact b.command_total idle off (nextAction_command rest idle quiet)
    · obtain ⟨notClosed, event⟩ := not_or.1 quiet
      have opened : s.xstate = .xIdle := by
        cases hx : s.xstate <;> rw [hx] at rest notClosed <;> cases rest
        exact absurd rfl notClosed
      have performs : engineTurn s = exec .lineStep s := by
        rw [engineTurn, nextAction_line opened idle (by simpa using event)]
      rw [performs]
      exact b.lineStep_total idle opened off

end

end Sys2Proof.Machine

namespace Sys2Proof.Machine

theorem XState.ne_of_inOperation {x : XState} (op : x.inOperation = true) : x ≠ .xClosed ∧ x ≠ .xIdle := by
  constructor <;> rintro rfl <;> cases op

section
variable {p : Params} {s t : State}

/-! Moves within an operation -/

theorem quiet_of_off (off : s.timer = false) : Quiet s := fun armed => absurd (off.symm.trans armed) Bool.false_ne_true

theorem Base.bound_source (b : Base p s) (op : s.xstate.inOperation = true) : ∃ r, s.srcBind = some r :=
  Option.isSome_iff_exists.1 (b.srcBound.trans (bne_iff_ne.2 (XState.ne_of_inOperation op).1))

theorem Base.bound_sink (b : Base p s) (op : s.xstate.inOperation = true) : ∃ r, s.dstBind = some r :=
  Option.isSome_iff_exists.1 (b.dstBound.trans (bne_iff_ne.2 (XState.ne_of_inOperation op).1))

/-- From one state of an operation to another. -/
theorem Base.moves (b : Base p s) (op : s.xstate.inOperation = true) {x : XState} (goal : x.inOperation = true) :
    Base p { s with xstate := x } := by
  have here : (s.xstate != .xClosed) = true := bne_iff_ne.2 (XState.ne_of_inOperation op).1
  have there : (x != .xClosed) = true := bne_iff_ne.2 (XState.ne_of_inOperation goal).1
  exact { b with
    openSession := b.openSession.trans (here.trans there.symm)
    srcBound := b.srcBound.trans (here.trans there.symm)
    dstBound := b.dstBound.trans (here.trans there.symm)
    operationBusy := fun _ => b.operationBusy op
    lineIdle := fun _ => b.lineIdle (XState.ne_of_inOperation op).2
    walkBusy := fun hw => absurd hw (b.stopped (.inr op))
    decodeRuns := fun _ rest => absurd (rest.symm.trans goal) Bool.false_ne_true }

/-! The write operation -/

theorem writeToken_length (p : Params) : 2 ≤ (writeToken p).length ∧ (writeToken p).length ≤ 65536 := by
  simp only [writeToken, List.length_cons, List.length_take]
  omega

theorem Base.inv_checkSource (b : Base p s) (ph : Phase p .wrCheck s) (hx : s.xstate = .wrCheck) {r : Nat}
    (bound : s.srcBind = some r) : Inv p (checkSource (Memory.bytes (Store.get s.sources r)) s) := by
  obtain ⟨off, kind, start⟩ := ph
  have op : s.xstate.inOperation = true := by rw [hx]; rfl
  have length : (Memory.bytes (Store.get s.sources r)).length = (Store.get s.sources r).length := List.length_map _
  unfold checkSource
  split
  · exact b.inv_abort op (c := .notAnOpkFile) rfl (by decide)
  next isContainer =>
  split
  · exact b.inv_abort op (c := .packTooLarge) rfl (by decide)
  next small =>
  split
  · exact b.inv_abort op (c := .truncated) rfl (by decide)
  next whole =>
  have bt : Base p (startDrain (containerSize (Memory.bytes (Store.get s.sources r))) s) :=
    { b.moves op (x := .wrDrain) rfl with }
  refine bt.inv ⟨off, kind, start, ⟨Nat.not_lt.1 small, r, bound, ?_⟩, Nat.le_refl _⟩ (quiet_of_off off)
  rw [length] at isContainer whole
  simp only [startDrain]
  omega

theorem Base.inv_writeLoop (b : Base p s) (op : s.xstate.inOperation = true) (off : s.timer = false)
    (kind : s.opkind = .write) (checked : WriteChecked s) : Inv p (writeLoop s) := by
  unfold writeLoop
  split
  next more =>
    have bt := b.moves op (x := .wrSend) rfl
    exact bt.inv ⟨off, kind, checked, more⟩ (quiet_of_off off)
  · exact b.inv_operationExit op off

theorem Base.drain_total (b : Base p s) (ph : Phase p .wrDrain s) (hx : s.xstate = .wrDrain) :
    ∃ t, drainStep s = .next t ∧ Inv p t := by
  obtain ⟨off, kind, start, checked, left⟩ := ph
  have op : s.xstate.inOperation = true := by rw [hx]; rfl
  cases hl : s.drainLeft with
  | zero =>
    have bt : Base p { s with xstate := .wrToken, tidx := 0 } := { b.moves op (x := .wrToken) rfl with }
    have token : 0 < (writeToken p).length := by
      have := (writeToken_length p).1
      omega
    exact ⟨_, drainStep_done hl, bt.inv ⟨off, kind, start, checked, token⟩ (quiet_of_off off)⟩
  | succ k =>
    by_cases err : s.chErr = true
    · exact ⟨_, drainStep_chErr (by omega) err, b.inv_channelError (.inr op)⟩
    cases head : s.rxq with
    | nil =>
      rw [hl, head] at left
      cases left
    | cons c rest =>
      refine ⟨_, drainStep_discards hl (by simpa using err) head, ?_⟩
      have bt : Base p { s with rxq := rest, drainLeft := k } := { b with }
      rw [hl, head, List.length_cons] at left
      refine bt.inv ?_ (quiet_of_off off)
      simp only [hx]
      exact ⟨off, kind, start, checked, Nat.le_of_succ_le_succ left⟩

theorem Base.token_total (b : Base p s) (ph : Phase p .wrToken s) (hx : s.xstate = .wrToken) :
    ∃ t, tokenStep p s = .next t ∧ Inv p t := by
  obtain ⟨off, kind, start, checked, index⟩ := ph
  have op : s.xstate.inOperation = true := by rw [hx]; rfl
  by_cases err : s.chErr = true
  · exact ⟨_, transmit_chErr err _ _, b.inv_channelError (.inr op)⟩
  refine ⟨_, transmit_sends (by simpa using err) _ _, ?_⟩
  unfold tokenNext
  split
  next more =>
    have bt : Base p { s with txq := s.txq ++ [(writeToken p).getD s.tidx.toNat 0], tidx := s.tidx + 1 } := { b with }
    refine bt.inv ?_ (quiet_of_off off)
    simp only [hx]
    refine ⟨off, kind, start, checked, ?_⟩
    have short := (writeToken_length p).2
    have noWrap : (s.tidx + 1).toNat = s.tidx.toNat + 1 := by bv_omega
    simpa only [noWrap] using more
  next last =>
    have bt : Base p { s with txq := s.txq ++ [(writeToken p).getD s.tidx.toNat 0], xstate := .wrSize, tidx := 0 } :=
      { b.moves op (x := .wrSize) rfl with }
    exact bt.inv ⟨off, kind, start, checked, Nat.zero_le 1⟩ (quiet_of_off off)

theorem Base.size_total (b : Base p s) (ph : Phase p .wrSize s) (hx : s.xstate = .wrSize) :
    ∃ t, sizeStep s = .next t ∧ Inv p t := by
  obtain ⟨off, kind, start, checked, -⟩ := ph
  have op : s.xstate.inOperation = true := by rw [hx]; rfl
  by_cases first : s.tidx = 0
  · rw [sizeStep_first first]
    by_cases err : s.chErr = true
    · exact ⟨_, transmit_chErr err _ _, b.inv_channelError (.inr op)⟩
    refine ⟨_, transmit_sends (by simpa using err) _ _, ?_⟩
    have bt : Base p { s with txq := s.txq ++ [s.tsize.extractLsb' 8 8], tidx := 1 } := { b with }
    refine bt.inv ?_ (quiet_of_off off)
    simp only [hx]
    exact ⟨off, kind, start, checked, Nat.le_refl 1⟩
  · rw [sizeStep_second first]
    by_cases err : s.chErr = true
    · exact ⟨_, transmit_chErr err _ _, b.inv_channelError (.inr op)⟩
    refine ⟨_, transmit_sends (by simpa using err) _ _, ?_⟩
    have bt : Base p (csaClear { s with txq := s.txq ++ [s.tsize.extractLsb' 0 8] }) := { b with }
    exact bt.inv_writeLoop op off kind checked

theorem Base.send_total (b : Base p s) (ph : Phase p .wrSend s) (hx : s.xstate = .wrSend) :
    ∃ t, sendStep s = .next t ∧ Inv p t := by
  obtain ⟨off, kind, ⟨small, r, bound, whole⟩, inside⟩ := ph
  have op : s.xstate.inOperation = true := by rw [hx]; rfl
  have length : (Memory.bytes (Store.get s.sources r)).length = (Store.get s.sources r).length := List.length_map _
  have here : Memory.read (Store.get s.sources r) (6 + s.addr.toNat) =
      some (Memory.bytes (Store.get s.sources r))[6 + s.addr.toNat] := by
    rw [read_of_wf (store_get_wf b.sourcesWf), List.getElem?_eq_getElem (by omega)]
  rw [sendStep_eq bound here]
  by_cases err : s.chErr = true
  · refine ⟨_, sendByte_chErr err _ _, ?_⟩
    rw [feedSent_eq]
    have bt {v : Byte} {c : BitVec 16} : Base p { s with csa := c, lastTx := v } := { b with }
    exact bt.inv_channelError (.inr op)
  · refine ⟨_, sendByte_sends (by simpa using err) _ _, ?_⟩
    rw [feedSent_eq]
    have bt {v : Byte} {c : BitVec 16} :
        Base p { s with csa := c, lastTx := v, txq := s.txq ++ [v], xstate := .wrEcho } :=
      { b.moves op (x := .wrEcho) rfl with }
    exact bt.inv ⟨kind, ⟨small, r, bound, whole⟩, inside⟩ (quiet_of_off off)

theorem Base.echo_total (b : Base p s) (ph : Phase p .wrEcho s) (hx : s.xstate = .wrEcho) :
    ∃ t, echoStep s = .next t ∧ Inv p t := by
  obtain ⟨kind, checked, inside⟩ := ph
  have op : s.xstate.inOperation = true := by rw [hx]; rfl
  by_cases err : s.chErr = true
  · exact ⟨_, awaitByte_chErr err _, b.inv_channelError (.inr op)⟩
  have noErr : s.chErr = false := by simpa using err
  cases head : s.rxq with
  | nil =>
    refine ⟨_, awaitByte_arms noErr head _, ?_⟩
    have bt : Base p { s with timer := true } := { b with }
    refine bt.inv ?_ fun _ => ⟨head, noErr⟩
    simp only [hx]
    exact ⟨kind, checked, inside⟩
  | cons e rest =>
    have bt : Base p { s with rxq := rest, timer := false } := { b with }
    rw [echoStep, awaitByte_takes noErr head]
    by_cases same : e = s.lastTx
    · subst same
      refine ⟨_, compareEcho_same (s := { s with rxq := rest, timer := false }) hx, ?_⟩
      have next : Base p { s with rxq := rest, timer := false, addr := s.addr + 1 } := { b with }
      exact next.inv_writeLoop op rfl kind checked
    · exact ⟨_, compareEcho_other (s := { s with rxq := rest, timer := false }) hx same,
        bt.inv_abort op (c := .verifyFailed) rfl (by decide)⟩

end

end Sys2Proof.Machine

namespace Sys2Proof.Machine

section
variable {p : Params} {s t : State}

/-! The read operation keeps the invariant -/

theorem Base.readInit_total (b : Base p s) (ph : Phase p .rdInit s) (hx : s.xstate = .rdInit) :
    ∃ t, readInit s = .next t ∧ Inv p t := by
  obtain ⟨off, kind, start⟩ := ph
  have op : s.xstate.inOperation = true := by rw [hx]; rfl
  obtain ⟨r, bound⟩ := b.bound_sink op
  have sink := readInit_sink b.sinksWf r
  have bt : Base p
      { appendSink r readPrefix (setSink r [] s) with xstate := .rdSize, tidx := 0, rdSizeBytes := [] } :=
    { b.moves op (x := .rdSize) rfl with
      sinksWf := appendSink_wf (setSink r [] s) r _ (setSink_wf s r [] b.sinksWf rfl) }
  refine ⟨_, readInit_eq bound, bt.inv ⟨kind, start, ⟨rfl, Nat.zero_le 2⟩, r, bound, ?_, ?_⟩ (quiet_of_off off)⟩
  · have zero : s.addr.toNat = 0 := by rw [start.1]; rfl
    exact (congrArg List.length sink).trans (congrArg (6 + ·) zero.symm)
  · exact congrArg (fun m => (Memory.bytes m).take 6) sink

theorem Base.readSize_total (b : Base p s) (ph : Phase p .rdSize s) (hx : s.xstate = .rdSize) :
    ∃ t, readSizeStep s = .next t ∧ Inv p t := by
  obtain ⟨kind, ⟨addr, run, none⟩, ⟨count, atMost⟩, captured⟩ := ph
  have op : s.xstate.inOperation = true := by rw [hx]; rfl
  by_cases err : s.chErr = true
  · exact ⟨_, awaitByte_chErr err _, b.inv_channelError (.inr op)⟩
  have noErr : s.chErr = false := by simpa using err
  cases head : s.rxq with
  | nil =>
    refine ⟨_, awaitByte_arms noErr head _, ?_⟩
    have bt : Base p { s with timer := true } := { b with }
    refine bt.inv ?_ fun _ => ⟨head, noErr⟩
    simp only [hx]
    exact ⟨kind, ⟨addr, run, none⟩, ⟨count, atMost⟩, captured⟩
  | cons c rest =>
    rw [readSizeStep, awaitByte_takes noErr head]
    by_cases few : s.rdSizeBytes.length < 2
    · refine ⟨_, takeSizeByte_more (s := { s with rxq := rest, timer := false }) few c, ?_⟩
      have bt : Base p
          { s with rxq := rest, timer := false, rdSizeBytes := s.rdSizeBytes ++ [c], tidx := s.tidx + 1 } := { b with }
      refine bt.inv ?_ (quiet_of_off rfl)
      have noWrap : (s.tidx + 1).toNat = s.tidx.toNat + 1 := by bv_omega
      simp only [hx]
      refine ⟨kind, ⟨addr, run, none⟩, ⟨?_, ?_⟩, captured⟩
      · simp only [List.length_append, List.length_singleton, noWrap, count]
      · simp only [noWrap]
        omega
    · obtain ⟨r0, r1, two⟩ := List.length_eq_two.1 (show s.rdSizeBytes.length = 2 by omega)
      refine ⟨_, takeSizeByte_last (s := { s with rxq := rest, timer := false }) two c, ?_⟩
      have bt : Base p
          { s with rxq := rest, timer := false, rdSizeBytes := [r0, r1, c], tsize := be24 r0 r1 c, xstate := .rdWait } :=
        { b.moves op (x := .rdWait) rfl with }
      have small : s.ffrun.toNat = 0 := by rw [run]; rfl
      have pos := (Tests.numFfChk_bounds p).1
      refine bt.inv ⟨kind, nofun, captured, ?_, fun _ => ?_, ?_⟩ (quiet_of_off rfl)
      · simp only [small]
        exact Nat.zero_le _
      · simp only [small]
        omega
      · simp [none]

/-- The stop tests keep ADDR below its ceiling. -/
theorem addr_advances (goesOn : stopBefore p s = false) (below : atCeiling s = false) :
    (s.addr + 1).toNat = s.addr.toNat + 1 := by
  have notStop : ¬ stopBefore p s = true := by simp [goesOn]
  have notCeiling : ¬ atCeiling s = true := by simp [below]
  rw [stopBefore_iff] at notStop
  rw [atCeiling_iff] at notCeiling
  have room : s.addr.toNat < 0xFFFFFF := by
    cases mode : cfgTermMode s.scfg with
    | false =>
      have limit := s.tsize.isLt
      have before : ¬ min (cfgTargetLen s.scfg).toNat s.tsize.toNat ≤ s.addr.toNat := fun h => notStop (.inl ⟨mode, h⟩)
      omega
    | true =>
      have notTop : s.addr ≠ 0xFFFFFF#24 := fun h => notCeiling ⟨mode, h⟩
      have limit := s.addr.isLt
      have differs : s.addr.toNat ≠ 0xFFFFFF := fun h => notTop (BitVec.eq_of_toNat_eq h)
      omega
  bv_omega

theorem runAfter_le (q run : Byte) : (runAfter q run).toNat ≤ run.toNat + 1 := by
  unfold runAfter
  split
  · rw [BitVec.toNat_ofNat]
    omega
  · exact Nat.zero_le _

/-- The retraction takes back no more than what was recorded. -/
theorem addr_retracts {n : Byte} (pos : 1 ≤ n.toNat) {addr : BitVec 24} (recorded : n.toNat ≤ addr.toNat) :
    (addr - (n - 1).zeroExtend 24).toNat = addr.toNat - (n.toNat - 1) := by
  have back : ((n - 1).zeroExtend 24).toNat = n.toNat - 1 := by
    rw [BitVec.toNat_setWidth_of_le (by decide)]
    bv_omega
  rw [BitVec.toNat_sub_of_le (BitVec.le_def.2 (by omega)), back]

/-- A byte appended to the sink of a capture. -/
theorem appended_captured {r : Nat} (hw : Store.wf s.sinks = true) (length : (sinkOf s r).length = 6 + s.addr.toNat)
    (head : (Memory.bytes (sinkOf s r)).take 6 = readPrefix) (q : Byte) :
    (sinkOf (appendSink r [q] s) r).length = 6 + (s.addr.toNat + 1) ∧
      (Memory.bytes (sinkOf (appendSink r [q] s) r)).take 6 = readPrefix := by
  have bytes := appendSink_bytes s r [q] hw
  constructor
  · rw [← List.length_map (fun c => c.2)]
    refine (congrArg List.length bytes).trans ?_
    simp [Memory.bytes, length, Nat.add_assoc]
  · rw [bytes, List.take_append_of_le_length, head]
    simp [Memory.bytes, length]

theorem Base.store_total (b : Base p s) (ph : Phase p .rdWait s) (hx : s.xstate = .rdWait) {q : Byte}
    (held : s.rdPending = some q) : ∃ t, echoPayload p q s = .next t ∧ Inv p t := by
  obtain ⟨kind, armedNone, ⟨r, bound, length, head⟩, runBound, runSentinel, waits⟩ := ph
  have op : s.xstate.inOperation = true := by rw [hx]; rfl
  have off : s.timer = false := by
    rw [← Bool.not_eq_true]
    intro armed
    cases held.symm.trans (armedNone armed)
  obtain ⟨goesOn, below⟩ := waits (.inr (by rw [held]; rfl))
  have advances := addr_advances goesOn below
  obtain ⟨appended, head⟩ := appended_captured b.sinksWf length head q
  have wf := appendSink_wf s r [q] b.sinksWf
  have pos := (Tests.numFfChk_bounds p).1
  have grows := runAfter_le q s.ffrun
  by_cases err : s.chErr = true
  · refine ⟨_, echoPayload_chErr p bound err q, ?_⟩
    have bt : Base p (appendSink r [q] { s with rdPending := none }) := { b with sinksWf := wf }
    exact bt.inv_channelError (.inr op)
  refine ⟨_, echoPayload_stores p bound (by simpa using err) q, ?_⟩
  by_cases ends : retracts p q s
  · rw [storePayload_ends (s := { s with txq := s.txq ++ [q] }) ends]
    have bt : Base p { appendSink r [q] { s with txq := s.txq ++ [q] } with
        rdPending := none, ffrun := runAfter q s.ffrun, addr := s.addr + 1 - (numFfChk p - 1).zeroExtend 24,
        xstate := .rdFinish } :=
      { b.moves op (x := .rdFinish) rfl with sinksWf := wf }
    refine bt.inv ⟨off, kind, r, bound, ?_, head⟩ (quiet_of_off off)
    rw [ends.2] at grows
    have back := addr_retracts pos (addr := s.addr + 1) (by omega)
    simp only [back]
    refine Nat.le_trans ?_ (Nat.le_of_eq appended.symm)
    omega
  · rw [storePayload_goesOn (s := { s with txq := s.txq ++ [q] }) ends]
    have bt : Base p { appendSink r [q] { s with txq := s.txq ++ [q] } with
        rdPending := none, ffrun := runAfter q s.ffrun, addr := s.addr + 1 } := { b with sinksWf := wf }
    refine bt.inv ?_ (quiet_of_off off)
    have phase : Phase p .rdWait { appendSink r [q] { s with txq := s.txq ++ [q] } with
        rdPending := none, ffrun := runAfter q s.ffrun, addr := s.addr + 1 } := by
      refine ⟨kind, fun _ => rfl, ⟨r, bound, ?_, head⟩, ?_, fun sentinel => ?_, fun h => ?_⟩
      · simp only [advances]
        exact appended
      · simp only [advances]
        omega
      · have room := runSentinel sentinel
        have differs : (runAfter q s.ffrun).toNat ≠ (numFfChk p).toNat :=
          fun e => ends ⟨sentinel, BitVec.eq_of_toNat_eq e⟩
        simp only
        omega
      · rcases h with armed | pending
        · exact absurd (off.symm.trans armed) Bool.false_ne_true
        · cases pending
    exact hx ▸ phase

theorem Base.readWait_total (b : Base p s) (ph : Phase p .rdWait s) (hx : s.xstate = .rdWait) :
    ∃ t, readWaitStep p s = .next t ∧ Inv p t := by
  cases held : s.rdPending with
  | some q =>
    rw [readWaitStep_echoes p held]
    exact b.store_total ph hx held
  | none =>
    obtain ⟨kind, -, ⟨r, bound, length, head⟩, runBound, runSentinel, waits⟩ := ph
    have op : s.xstate.inOperation = true := by rw [hx]; rfl
    by_cases stop : stopBefore p s = true
    · have off : s.timer = false := by
        rw [← Bool.not_eq_true]
        intro armed
        exact Bool.false_ne_true ((waits (.inl armed)).1.symm.trans stop)
      exact ⟨_, readWaitStep_stops p held stop, (b.moves op (x := .rdFinish) rfl).inv
        ⟨off, kind, r, bound, Nat.le_of_eq length.symm, head⟩ (quiet_of_off off)⟩
    by_cases ceiling : atCeiling s = true
    · exact ⟨_, readWaitStep_ceiling p held stop ceiling, b.inv_abort op (c := .packTooLarge) rfl (by decide)⟩
    rw [readWaitStep_awaits p held stop ceiling]
    have goesOn : stopBefore p s = false ∧ atCeiling s = false := ⟨by simpa using stop, by simpa using ceiling⟩
    by_cases err : s.chErr = true
    · exact ⟨_, awaitByte_chErr err _, b.inv_channelError (.inr op)⟩
    have noErr : s.chErr = false := by simpa using err
    cases queue : s.rxq with
    | nil =>
      refine ⟨_, awaitByte_arms noErr queue _, ?_⟩
      have bt : Base p { s with timer := true } := { b with }
      refine bt.inv ?_ fun _ => ⟨queue, noErr⟩
      have phase : Phase p .rdWait { s with timer := true } :=
        ⟨kind, fun _ => held, ⟨r, bound, length, head⟩, runBound, runSentinel, fun _ => goesOn⟩
      exact hx ▸ phase
    | cons q rest =>
      refine ⟨_, awaitByte_takes noErr queue _, ?_⟩
      have bt : Base p { s with rxq := rest, timer := false, rdPending := some q } := { b with }
      refine bt.inv ?_ (quiet_of_off rfl)
      have phase : Phase p .rdWait { s with rxq := rest, timer := false, rdPending := some q } :=
        ⟨kind, nofun, ⟨r, bound, length, head⟩, runBound, runSentinel, fun _ => goesOn⟩
      exact hx ▸ phase

theorem Base.readFinish_total (b : Base p s) (ph : Phase p .rdFinish s) (hx : s.xstate = .rdFinish) :
    ∃ t, readFinish p s = .next t ∧ Inv p t := by
  obtain ⟨off, -, r, bound, long, -⟩ := ph
  refine ⟨_, readFinish_eq p bound b.sinksWf long, ?_⟩
  have bt {bs : List Byte} : Base p (setSink r (Memory.ofBytes bs) s) :=
    { b with sinksWf := setSink_wf s r _ b.sinksWf (ofBytes_wf bs) }
  exact bt.inv_operationExit (by rw [setSink_xstate, hx]; rfl) off

/-! Every turn of OPKFE -/

theorem Base.transfer_total (b : Base p s) (ph : Phase p s.xstate s) (op : s.xstate.inOperation = true) :
    ∃ t, transferStep p s = .next t ∧ Inv p t := by
  cases hx : s.xstate <;> rw [hx] at ph op <;> cases op
  case wrCheck =>
    obtain ⟨r, bound⟩ := b.bound_source (by rw [hx]; rfl)
    rw [transferStep_wrCheck p hx, writeCheck_eq bound]
    exact ⟨_, rfl, b.inv_checkSource ph hx bound⟩
  case wrDrain => exact transferStep_wrDrain p hx ▸ b.drain_total ph hx
  case wrToken => exact transferStep_wrToken p hx ▸ b.token_total ph hx
  case wrSize => exact transferStep_wrSize p hx ▸ b.size_total ph hx
  case wrSend => exact transferStep_wrSend p hx ▸ b.send_total ph hx
  case wrEcho => exact transferStep_wrEcho p hx ▸ b.echo_total ph hx
  case rdInit => exact transferStep_rdInit p hx ▸ b.readInit_total ph hx
  case rdSize => exact transferStep_rdSize p hx ▸ b.readSize_total ph hx
  case rdWait => exact transferStep_rdWait p hx ▸ b.readWait_total ph hx
  case rdFinish => exact transferStep_rdFinish p hx ▸ b.readFinish_total ph hx

/-- Outside an operation the timer is disarmed. -/
theorem Phase.timer_off {x : XState} (ph : Phase p x s) (rest : x.inOperation = false) : s.timer = false := by
  cases x <;> cases rest
  case xClosed => exact ph
  case xIdle => exact ph

/-- OPKFE's turn answers a next state and establishes the invariant, also where a byte or a transport error has just
come for an armed timer. -/
theorem Base.engine_total (b : Base Config.params s) (ph : Phase Config.params s.xstate s) :
    ∃ t, engineTurn s = .next t ∧ Inv Config.params t := by
  by_cases op : s.xstate.inOperation = true
  · rw [engineTurn_transfer op]
    exact b.transfer_total ph op
  · have rest : s.xstate.inOperation = false := by simpa using op
    exact b.rest_total rest (ph.timer_off rest)

end

end Sys2Proof.Machine

namespace Sys2Proof.Machine

section
variable {p : Params} {s t : State}

/-! Events of the other agents keep the invariant (R262 to R264) -/

/-- A step that another agent's event ends, or that OPKFE takes up at once. -/
theorem Base.wake_total (b : Base Config.params t) (ph : Phase Config.params t.xstate t) (same : t.timer = s.timer) :
    ∃ u, wake s t = .next u ∧ Inv Config.params u := by
  by_cases waits : waiting s = true
  · rw [wake, if_pos waits]
    exact b.engine_total ph
  · have off : t.timer = false := by
      rw [same, ← Bool.not_eq_true]
      intro armed
      exact waits (by rw [waiting, armed, Bool.true_or])
    exact ⟨t, if_neg waits, b.inv ph (quiet_of_off off)⟩

/-- A byte that arrives leaves the drain's bytes where they are. -/
theorem Phase.receives {x : XState} (ph : Phase p x s) (c : Byte) : Phase p x { s with rxq := s.rxq ++ [c] } := by
  cases x
  case wrDrain =>
    obtain ⟨off, kind, start, checked, left⟩ := ph
    exact ⟨off, kind, start, checked, by simp only [List.length_append]; omega⟩
  all_goals exact ph

theorem Inv.timerEvent_total (inv : Inv p s) : ∃ t, timerEvent s = .next t ∧ Inv p t := by
  by_cases due : (s.timer && !lineEvent s) = true
  · have op : s.xstate.inOperation = true := by
      rw [← Bool.not_eq_false]
      intro rest
      simp [inv.timer_rest rest] at due
    exact ⟨_, if_pos due, inv.base.inv_abort op (c := .timeout) rfl (by decide)⟩
  · exact ⟨_, if_neg due, inv⟩

/-- A host that keeps its duty fills no buffer bound to a running operation. -/
theorem hostFill_kept {bound : Option Nat} {n : Nat} (kept : (s.xstate.inOperation && bound == some n) = false)
    (t : State) : hostFill bound n t s = .next t := by
  rw [hostFill, kept]
  rfl

theorem XState.inOperation_of_inWrite {x : XState} (h : x.inWrite = true) : x.inOperation = true := by
  cases x <;> cases h <;> rfl

/-- The buffer an operation has bound is another one than the one the host fills. -/
theorem bound_ne_filled {bound : Option Nat} {n r : Nat} (kept : (s.xstate.inOperation && bound == some n) = false)
    (op : s.xstate.inOperation = true) (hr : bound = some r) : r ≠ n := by
  rintro rfl
  rw [op, hr] at kept
  simp at kept

theorem Inv.fillSource (inv : Inv p s) {n : Nat} (kept : (s.xstate.inOperation && s.srcBind == some n) = false)
    (bytes : List Byte) : Inv p { s with sources := Store.set s.sources n (Memory.ofBytes bytes) } :=
  { inv with
    sourcesWf := store_set_wf inv.sourcesWf (ofBytes_wf bytes)
    writeChecked := fun hw notCheck => by
      obtain ⟨small, r, hr, whole⟩ := inv.writeChecked hw notCheck
      have other := bound_ne_filled kept (XState.inOperation_of_inWrite hw) hr
      refine ⟨small, r, hr, ?_⟩
      simp only [store_get_set_other _ _ _ _ other]
      exact whole }

theorem Inv.fillSink (inv : Inv p s) {n : Nat} (kept : (s.xstate.inOperation && s.dstBind == some n) = false)
    (bytes : List Byte) : Inv p { s with sinks := Store.set s.sinks n (Memory.ofBytes bytes) } := by
  have same {r : Nat} {x : XState} (hx : s.xstate = x) (op : x.inOperation = true) (hr : s.dstBind = some r) :
      sinkOf { s with sinks := Store.set s.sinks n (Memory.ofBytes bytes) } r = sinkOf s r :=
    store_get_set_other _ _ _ _ (bound_ne_filled kept (by rw [hx, op]) hr)
  exact { inv with
    sinksWf := store_set_wf inv.sinksWf (ofBytes_wf bytes)
    readSink := fun h => by
      obtain ⟨r, hr, length⟩ := inv.readSink h
      refine ⟨r, hr, ?_⟩
      rcases h with hx | hx <;> rw [same hx rfl hr] <;> exact length
    readSurplus := fun hx => by
      obtain ⟨r, hr, length⟩ := inv.readSurplus hx
      refine ⟨r, hr, ?_⟩
      rw [same hx rfl hr]
      exact length
    readHead := fun h => by
      obtain ⟨r, hr, head⟩ := inv.readHead h
      refine ⟨r, hr, ?_⟩
      rcases h with hx | hx | hx <;> rw [same hx rfl hr] <;> exact head }

/-- What the host's duty says of the event at hand. -/
def eventKeepsDuty (s : State) : EnvEvent → Prop
  | .fillSource n _ => (s.xstate.inOperation && s.srcBind == some n) = false
  | .fillSink n _ => (s.xstate.inOperation && s.dstBind == some n) = false
  | _ => True

theorem Inv.envTurn_total (inv : Inv Config.params s) {e : EnvEvent} (kept : eventKeepsDuty s e) :
    ∃ t, envTurn e s = .next t ∧ Inv Config.params t := by
  have b := inv.base
  have ph := inv.phase
  cases e with
  | hostCommand c =>
    by_cases busy : s.busy = true
    · exact ⟨refuseBusy s, if_pos busy, { inv with }⟩
    · have bt : Base Config.params { s with hcmd := s.hcmd ++ [c] } := { b with }
      rw [envTurn, if_neg busy]
      exact bt.wake_total ph rfl
  | rxByte c =>
    have bt : Base Config.params { s with rxq := s.rxq ++ [c] } := { b with }
    exact bt.wake_total (ph.receives c) rfl
  | txTaken => exact ⟨_, rfl, { inv with }⟩
  | chErrLevel level =>
    have bt : Base Config.params { s with chErr := level } := { b with }
    exact bt.wake_total ph rfl
  | timerExpires => exact inv.timerEvent_total
  | fillSource n bytes => exact ⟨_, hostFill_kept kept _, inv.fillSource kept bytes⟩
  | fillSink n bytes => exact ⟨_, hostFill_kept kept _, inv.fillSink kept bytes⟩

/-! Every step -/

theorem hostKeepsDuty_event {e : EnvEvent} {rest : List Turn} (hs : s.sched = .env e :: rest)
    (duty : hostKeepsDuty s = true) : eventKeepsDuty s e := by
  rw [hostKeepsDuty, hs] at duty
  cases e with
  | fillSource n bytes => exact Bool.not_eq_eq_eq_not.1 duty
  | fillSink n bytes => exact Bool.not_eq_eq_eq_not.1 duty
  | hostCommand | rxByte | txTaken | chErrLevel | timerExpires => trivial

/-- Under the invariant a step answers a next state that satisfies it, where the host keeps its duty. -/
theorem Inv.step_total (inv : Inv Config.params s) (duty : hostKeepsDuty s = true) :
    ∃ t, step s = .next t ∧ Inv Config.params t := by
  have later (rest : List Turn) : Inv Config.params { s with sched := rest } := { inv with }
  rw [step, turn]
  split
  next => exact inv.base.engine_total inv.phase
  next rest hs => exact (later rest).base.engine_total (later rest).phase
  next e rest hs =>
    have kept := hostKeepsDuty_event hs duty
    exact (later rest).envTurn_total (by cases e <;> exact kept)

/-- A broken duty stops the machine. -/
theorem step_of_duty_broken (broken : ¬ hostKeepsDuty s = true) : step s = .fault .hostDuty := by
  rw [step, turn]
  unfold hostKeepsDuty at broken
  split at broken
  next n bytes rest hs =>
    rw [hs]
    exact if_pos (by simpa using broken)
  next n bytes rest hs =>
    rw [hs]
    exact if_pos (by simpa using broken)
  next => exact absurd rfl broken

end

/-- Settles O57: `Inv.step_total`. -/
theorem stepStopsOnlyOnHostDuty : Obligations.StepStopsOnlyOnHostDuty := by
  unfold Obligations.StepStopsOnlyOnHostDuty
  intro s inv duty
  obtain ⟨t, h, -⟩ := inv.step_total duty
  exact ⟨t, h⟩

/-- Settles O56: `Inv.step_total`; a step that breaks the host's duty has no next state. -/
theorem stepKeepsInvariant : Obligations.StepKeepsInvariant := by
  unfold Obligations.StepKeepsInvariant
  intro s t inv h
  by_cases duty : hostKeepsDuty s = true
  · obtain ⟨u, hu, kept⟩ := inv.step_total duty
    obtain rfl := Host.Outcome.next.inj (hu.symm.trans h)
    exact kept
  · rw [step_of_duty_broken duty] at h
    cases h

end Sys2Proof.Machine

namespace Sys2Proof.Machine

/-! Runs while BUSY is 1, step by step -/

/-- A step taken while BUSY is 1. -/
def BusyStep (s t : State) : Prop := s.busy = true ∧ step s = .next t

theorem runBusy_of_steps {s t : State} (h : Relation.ReflTransGen BusyStep s t) : ∃ n, runBusy n s = .next t := by
  induction h using Relation.ReflTransGen.head_induction_on with
  | refl => exact ⟨0, rfl⟩
  | head first _ ih =>
    obtain ⟨n, run⟩ := ih
    exact ⟨n + 1, (Tests.runBusy_step first.1 first.2).trans run⟩

/-! A read whose payload is queued (R248 to R256) -/

/-- RD_WAIT with `done` captured and `queue` still to come: the size announced is `len`, and the read began in `s0`. -/
structure Capturing (s0 : State) (r : Nat) (len : BitVec 24) (done queue : List Byte) (s : State) : Prop where
  sched : s.sched = []
  busy : s.busy = true
  state : s.xstate = .rdWait
  noErr : s.chErr = false
  noByte : s.rdPending = none
  bound : s.dstBind = some r
  wf : Store.wf s.sinks = true
  scfg : s.scfg = s0.scfg
  tsize : s.tsize = len
  addr : s.addr = BitVec.ofNat 24 done.length
  run : s.ffrun = BitVec.ofNat 8 (min 255 (ffTail done))
  sink : Memory.bytes (sinkOf s r) = readPrefix ++ done
  echoed : s.txq = s0.txq ++ done
  queued : s.rxq = queue

/-- RD_FINISH after a capture of `all`, of which `n` bytes are recorded. -/
structure Finishing (s0 : State) (r : Nat) (n : Nat) (all queue : List Byte) (s : State) : Prop where
  sched : s.sched = []
  busy : s.busy = true
  state : s.xstate = .rdFinish
  bound : s.dstBind = some r
  wf : Store.wf s.sinks = true
  addr : s.addr.toNat = n
  recorded : n ≤ all.length
  sink : Memory.bytes (sinkOf s r) = readPrefix ++ all
  echoed : s.txq = s0.txq ++ all
  queued : s.rxq = queue

section
variable {s0 s : State} {r : Nat} {len : BitVec 24}

theorem readSize_takes (noSched : s.sched = []) (hx : s.xstate = .rdSize) (noErr : s.chErr = false) {b : Byte}
    {rest : List Byte} (head : s.rxq = b :: rest) : step s = takeSizeByte b { s with rxq := rest, timer := false } := by
  rw [step_operation noSched hx rfl, transferStep_rdSize _ hx, readSizeStep, awaitByte_takes noErr head]

theorem readSize_more (noSched : s.sched = []) (hx : s.xstate = .rdSize) (noErr : s.chErr = false) {bs : List Byte}
    (taken : s.rdSizeBytes = bs) (few : bs.length < 2) {b : Byte} {rest : List Byte} (head : s.rxq = b :: rest) :
    step s = .next { s with rxq := rest, timer := false, rdSizeBytes := bs ++ [b], tidx := s.tidx + 1 } := by
  rw [readSize_takes noSched hx noErr head, takeSizeByte_more (by rw [← taken] at few; exact few), taken]

theorem readSize_last (noSched : s.sched = []) (hx : s.xstate = .rdSize) (noErr : s.chErr = false) {r0 r1 : Byte}
    (taken : s.rdSizeBytes = [r0, r1]) {b : Byte} {rest : List Byte} (head : s.rxq = b :: rest) :
    step s = .next
      { s with
        rxq := rest, timer := false, rdSizeBytes := [r0, r1, b], tsize := be24 r0 r1 b, xstate := .rdWait } := by
  rw [readSize_takes noSched hx noErr head]
  exact takeSizeByte_last (s := { s with rxq := rest, timer := false }) taken b

/-- The three size bytes, queued where RD_SIZE begins. -/
theorem readSize_run {r0 r1 r2 : Byte} {queue : List Byte} (noSched : s.sched = []) (busy : s.busy = true)
    (hx : s.xstate = .rdSize) (noErr : s.chErr = false) (noBytes : s.rdSizeBytes = [])
    (queued : s.rxq = r0 :: r1 :: r2 :: queue) :
    Relation.ReflTransGen BusyStep s
      { s with
        rxq := queue, timer := false, rdSizeBytes := [r0, r1, r2], tidx := s.tidx + 1 + 1, tsize := be24 r0 r1 r2,
        xstate := .rdWait } := by
  have first : step s =
      .next { s with rxq := r1 :: r2 :: queue, timer := false, rdSizeBytes := [r0], tidx := s.tidx + 1 } :=
    readSize_more noSched hx noErr noBytes Nat.zero_lt_two queued
  have second : step { s with rxq := r1 :: r2 :: queue, timer := false, rdSizeBytes := [r0], tidx := s.tidx + 1 } =
      .next { s with rxq := r2 :: queue, timer := false, rdSizeBytes := [r0, r1], tidx := s.tidx + 1 + 1 } :=
    readSize_more (s := { s with rxq := r1 :: r2 :: queue, timer := false, rdSizeBytes := [r0], tidx := s.tidx + 1 })
      noSched hx noErr rfl Nat.one_lt_two rfl
  have third : step { s with rxq := r2 :: queue, timer := false, rdSizeBytes := [r0, r1], tidx := s.tidx + 1 + 1 } =
      .next { s with
        rxq := queue, timer := false, rdSizeBytes := [r0, r1, r2], tidx := s.tidx + 1 + 1, tsize := be24 r0 r1 r2,
        xstate := .rdWait } :=
    readSize_last (s := { s with rxq := r2 :: queue, timer := false, rdSizeBytes := [r0, r1], tidx := s.tidx + 1 + 1 })
      noSched hx noErr rfl rfl
  exact .head ⟨busy, first⟩ (.head ⟨busy, second⟩ (.single ⟨busy, third⟩))

/-- RD_INIT and the three size bytes. -/
theorem capturing_start {r0 r1 r2 : Byte} {queue : List Byte} (noSched : s.sched = []) (busy : s.busy = true)
    (hx : s.xstate = .rdInit) (addr : s.addr = 0) (run : s.ffrun = 0) (noByte : s.rdPending = none)
    (noErr : s.chErr = false) (bound : s.dstBind = some r) (wf : Store.wf s.sinks = true)
    (queued : s.rxq = r0 :: r1 :: r2 :: queue) :
    ∃ t, Relation.ReflTransGen BusyStep s t ∧ Capturing s r (be24 r0 r1 r2) [] queue t := by
  have init : step s =
      .next { appendSink r readPrefix (setSink r [] s) with xstate := .rdSize, tidx := 0, rdSizeBytes := [] } := by
    rw [step_operation noSched hx rfl, transferStep_rdInit _ hx, readInit_eq bound]
  have sized := readSize_run
    (s := { appendSink r readPrefix (setSink r [] s) with xstate := .rdSize, tidx := 0, rdSizeBytes := [] })
    noSched busy rfl noErr rfl queued
  refine ⟨_, .head ⟨busy, init⟩ sized, ?_⟩
  exact
    { sched := noSched, busy, state := rfl, noErr, noByte, bound
      wf := appendSink_wf (setSink r [] s) r _ (setSink_wf s r [] wf rfl)
      scfg := rfl
      tsize := rfl
      addr
      run
      sink := congrArg Memory.bytes (readInit_sink wf r)
      echoed := (List.append_nil _).symm
      queued := rfl }

theorem step_rdWait (noSched : s.sched = []) (hx : s.xstate = .rdWait) : step s = readWaitStep Config.params s :=
  (step_operation noSched hx rfl).trans (transferStep_rdWait _ hx)

/-- A queued byte is taken where the stop tests let the loop go on, then echoed and stored. -/
theorem Capturing.stores {done queue : List Byte} {q : Byte} (c : Capturing s0 r len done (q :: queue) s)
    (goesOn : ¬ stopBefore Config.params s = true) (below : ¬ atCeiling s = true) :
    ∃ u, u = { s with rxq := queue, timer := false, rdPending := some q, txq := s.txq ++ [q] } ∧
      Relation.ReflTransGen BusyStep s (storePayload Config.params q r u) := by
  refine ⟨_, rfl, ?_⟩
  have taken : step s = .next { s with rxq := queue, timer := false, rdPending := some q } := by
    rw [step_rdWait c.sched c.state, readWaitStep_awaits _ c.noByte goesOn below,
      awaitByte_takes c.noErr c.queued]
  have stored : step { s with rxq := queue, timer := false, rdPending := some q } =
      .next (storePayload Config.params q r
        { s with rxq := queue, timer := false, rdPending := some q, txq := s.txq ++ [q] }) :=
    (step_rdWait (s := { s with rxq := queue, timer := false, rdPending := some q }) c.sched c.state).trans
      ((readWaitStep_echoes _ rfl).trans
        (echoPayload_stores (s := { s with rxq := queue, timer := false, rdPending := some q }) _ c.bound c.noErr q))
  exact .head ⟨c.busy, taken⟩ (.single ⟨c.busy, stored⟩)

theorem ffTail_append_one (bs : List Byte) (q : Byte) :
    ffTail (bs ++ [q]) = if q = 0xFF#8 then ffTail bs + 1 else 0 := by
  by_cases ff : q = 0xFF#8 <;> simp [ffTail, ff]

theorem ffTail_le (bs : List Byte) : ffTail bs ≤ bs.length := by
  exact (List.takeWhile_prefix _).length_le.trans (Nat.le_of_eq List.length_reverse)

/-- FFRUN counts the run of 0xFF that ends the bytes received, saturating at 255. -/
theorem runAfter_ffTail (done : List Byte) (q : Byte) :
    runAfter q (BitVec.ofNat 8 (min 255 (ffTail done))) = BitVec.ofNat 8 (min 255 (ffTail (done ++ [q]))) := by
  rw [runAfter, ffTail_append_one]
  split
  · rw [BitVec.toNat_ofNat, Nat.mod_eq_of_lt (by omega)]
    congr 1
    omega
  · rfl

theorem Capturing.run_next {done queue : List Byte} (c : Capturing s0 r len done queue s) (q : Byte) :
    runAfter q s.ffrun = BitVec.ofNat 8 (min 255 (ffTail (done ++ [q]))) := by
  rw [c.run, runAfter_ffTail]

theorem Capturing.addr_next {done queue : List Byte} (c : Capturing s0 r len done queue s) (q : Byte) :
    s.addr + 1 = BitVec.ofNat 24 (done ++ [q]).length := by
  rw [c.addr, List.length_append, BitVec.ofNat_add]
  rfl

/-- A byte that does not end the capture: the loop goes on with one byte more. -/
theorem Capturing.goes_on {done queue : List Byte} {q : Byte} (c : Capturing s0 r len done (q :: queue) s)
    (goesOn : ¬ stopBefore Config.params s = true) (below : ¬ atCeiling s = true)
    (noEnd : ¬ retracts Config.params q s) : ∃ t, Relation.ReflTransGen BusyStep s t ∧ Capturing s0 r len (done ++ [q]) queue t := by
  obtain ⟨u, rfl, steps⟩ := c.stores goesOn below
  rw [storePayload_goesOn (s := { s with rxq := queue, timer := false, rdPending := some q, txq := s.txq ++ [q] }) noEnd]
    at steps
  refine ⟨_, steps, ?_⟩
  exact
    { c with
      noByte := rfl
      wf := appendSink_wf s r [q] c.wf
      addr := c.addr_next q
      run := c.run_next q
      sink := (appendSink_bytes s r [q] c.wf).trans (by rw [c.sink, List.append_assoc])
      echoed := by
        simp only [appendSink, setSink, c.echoed, List.append_assoc]
      queued := rfl }

/-- RD_FINISH patches the size field and the operation ends (R256). -/
theorem Finishing.ends {n : Nat} {all queue : List Byte} (f : Finishing s0 r n all queue s) :
    ∃ t, BusyStep s t ∧ t.busy = false ∧ t.status = 0x00 ∧ t.xstate = .xIdle ∧ t.addr.toNat = n ∧
      Memory.bytes (sinkOf t r) = [0x4F#8, 0x50#8, 0x4B#8] ++ bytes24 (BitVec.ofNat 24 n) ++
        (if Config.params.truncateOnRetract = true then all.take n else all) ∧
      t.txq = s0.txq ++ all ∧ t.rxq = queue := by
  have length : (sinkOf s r).length = 6 + all.length := by
    rw [← List.length_map (fun c => c.2)]
    exact (congrArg List.length f.sink).trans (List.length_append)
  have addr : s.addr = BitVec.ofNat 24 n := by
    rw [← f.addr, BitVec.ofNat_toNat, BitVec.setWidth_eq]
  have long : 6 + s.addr.toNat ≤ (sinkOf s r).length := by
    rw [length, f.addr]
    exact Nat.add_le_add_left f.recorded 6
  have finished := (step_operation f.sched f.state rfl).trans
    ((transferStep_rdFinish _ f.state).trans (readFinish_eq _ f.bound f.wf long))
  refine ⟨_, ⟨f.busy, finished⟩, rfl, rfl, rfl, f.addr, ?_, f.echoed, f.queued⟩
  refine (congrArg Memory.bytes (sinkOf_setSink f.wf r _)).trans ((bytes_ofBytes _).trans ?_)
  rw [f.sink, finishedBytes, f.addr, addr]
  split
  · rw [Nat.add_comm 6 n]
    rfl
  · rfl

theorem addr_exact {n : Nat} (small : n < 2 ^ 24) : (BitVec.ofNat 24 n).toNat = n := Nat.mod_eq_of_lt small

/-! Fixed-size reads (R253) -/

/-- The limit reached: the capture is finished with all its bytes recorded. -/
theorem Capturing.stops {done queue : List Byte} (c : Capturing s0 r len done queue s) (small : done.length < 2 ^ 24)
    (stop : stopBefore Config.params s = true) :
    ∃ t, Relation.ReflTransGen BusyStep s t ∧ Finishing s0 r done.length done queue t := by
  have stopped : step s = .next { s with xstate := .rdFinish } := by
    rw [step_rdWait c.sched c.state, readWaitStep_stops _ c.noByte stop]
  refine ⟨_, .single ⟨c.busy, stopped⟩, ?_⟩
  exact
    { c with
      state := rfl
      addr := by
        simp only [c.addr]
        exact addr_exact small
      recorded := Nat.le_refl _ }

/-- A fixed-size read goes on to its limit, byte by byte. -/
theorem Capturing.fixed {qs rest todo : List Byte} (mode : cfgTermMode s0.scfg = false)
    (limit : qs.length = min (cfgTargetLen s0.scfg).toNat len.toNat) {done : List Byte} (split : qs = done ++ todo)
    (c : Capturing s0 r len done (todo ++ rest) s) :
    ∃ t, Relation.ReflTransGen BusyStep s t ∧ Finishing s0 r qs.length qs rest t := by
  have fixedMode : cfgTermMode s.scfg = false := by rw [c.scfg, mode]
  have small : qs.length < 2 ^ 24 := by
    have := len.isLt
    omega
  induction todo generalizing done s with
  | nil =>
    obtain rfl : qs = done := by rw [split, List.append_nil]
    refine c.stops small ((stopBefore_iff _ s).2 (.inl ⟨fixedMode, ?_⟩))
    rw [c.scfg, c.tsize, c.addr, addr_exact small, limit]
  | cons q todo ih =>
    have shorter : done.length < qs.length := by rw [split]; simp
    have goesOn : ¬ stopBefore Config.params s = true := by
      rw [stopBefore_iff, c.scfg, c.tsize, c.addr, addr_exact (Nat.lt_trans shorter small), ← limit, mode]
      simp [shorter]
    have below : ¬ atCeiling s = true := by simp [atCeiling_iff, fixedMode]
    have noEnd : ¬ retracts Config.params q s := fun h => Bool.false_ne_true (fixedMode.symm.trans h.1)
    obtain ⟨u, first, cu⟩ := c.goes_on goesOn below noEnd
    obtain ⟨t, later, f⟩ := ih (by rw [split, List.append_assoc]; rfl) cu (by rw [cu.scfg, mode])
    exact ⟨t, first.trans later, f⟩

/-! Sentinel reads (R254) -/

/-- The byte that completes the run: the capture is finished and the retraction taken. -/
theorem Capturing.retracted {done queue : List Byte} {q : Byte} (c : Capturing s0 r len done (q :: queue) s)
    (goesOn : ¬ stopBefore Config.params s = true) (below : ¬ atCeiling s = true) (ends : retracts Config.params q s)
    (small : (done ++ [q]).length < 2 ^ 24) (long : (numFfChk Config.params).toNat ≤ (done ++ [q]).length) :
    ∃ t, Relation.ReflTransGen BusyStep s t ∧
      Finishing s0 r ((done ++ [q]).length - ((numFfChk Config.params).toNat - 1)) (done ++ [q]) queue t := by
  obtain ⟨u, rfl, steps⟩ := c.stores goesOn below
  rw [storePayload_ends (s := { s with rxq := queue, timer := false, rdPending := some q, txq := s.txq ++ [q] }) ends]
    at steps
  refine ⟨_, steps, ?_⟩
  have exactly : (s.addr + 1).toNat = (done ++ [q]).length := by rw [c.addr_next q, addr_exact small]
  exact
    { sched := c.sched
      busy := c.busy
      state := rfl
      bound := c.bound
      wf := appendSink_wf s r [q] c.wf
      addr := (addr_retracts (Tests.numFfChk_bounds _).1 (by rw [exactly]; exact long)).trans (by rw [exactly])
      recorded := Nat.sub_le _ _
      sink := (appendSink_bytes s r [q] c.wf).trans (by rw [c.sink, List.append_assoc])
      echoed := by simp only [appendSink, setSink, c.echoed, List.append_assoc]
      queued := rfl }

/-- The byte ends the capture where the run that ends the bytes received has reached NUM_FF_CHK. -/
theorem Capturing.retracts_iff {done queue : List Byte} (c : Capturing s0 r len done queue s)
    (mode : cfgTermMode s.scfg = true) (before : ffTail done < (numFfChk Config.params).toNat) (q : Byte) :
    retracts Config.params q s ↔ ffTail (done ++ [q]) = (numFfChk Config.params).toNat := by
  have limit := (Tests.numFfChk_bounds Config.params).2
  have grows : ffTail (done ++ [q]) ≤ ffTail done + 1 := by
    rw [ffTail_append_one]
    split <;> omega
  have run : (BitVec.ofNat 8 (min 255 (ffTail (done ++ [q])))).toNat = ffTail (done ++ [q]) := by
    rw [BitVec.toNat_ofNat]
    omega
  rw [retracts, c.run_next q, ← BitVec.toNat_inj, run]
  exact and_iff_right mode

/-- The tests of a sentinel read at a byte of the stream: no stop before it, and the end of the capture after it where the
run is complete. -/
theorem Capturing.sentinel_tests {qs todo queue : List Byte} (mode : cfgTermMode s0.scfg = true)
    (small : qs.length ≤ 0xFFFFFF) (bounded : Config.params.sentinelBounded = true → qs.length ≤ len.toNat)
    (first : ∀ j, j < qs.length → ffTail (qs.take j) < (numFfChk Config.params).toNat) {done : List Byte} {q : Byte}
    (split : qs = done ++ q :: todo) (c : Capturing s0 r len done queue s) :
    ¬ stopBefore Config.params s = true ∧ ¬ atCeiling s = true ∧
      (retracts Config.params q s ↔ ffTail (done ++ [q]) = (numFfChk Config.params).toNat) := by
  have sentinelMode : cfgTermMode s.scfg = true := by rw [c.scfg, mode]
  have shorter : done.length < qs.length := by rw [split]; simp
  have addr : s.addr.toNat = done.length := by rw [c.addr, addr_exact (by omega)]
  have before : ffTail done < (numFfChk Config.params).toNat := by
    have h := first done.length shorter
    rwa [split, List.take_left] at h
  refine ⟨?_, ?_, c.retracts_iff sentinelMode before q⟩
  · rw [stopBefore_iff, sentinelMode, c.tsize, addr]
    rintro (⟨fixed, -⟩ | ⟨-, isBounded, reached⟩)
    · cases fixed
    · have := bounded isBounded
      omega
  · rw [atCeiling_iff]
    rintro ⟨-, top⟩
    rw [top] at addr
    have : (0xFFFFFF#24).toNat = 0xFFFFFF := rfl
    omega

/-- A sentinel read goes on to the first run of NUM_FF_CHK bytes 0xFF. -/
theorem Capturing.sentinel {qs rest todo : List Byte} (mode : cfgTermMode s0.scfg = true) (small : qs.length ≤ 0xFFFFFF)
    (bounded : Config.params.sentinelBounded = true → qs.length ≤ len.toNat)
    (run : ffTail qs = (numFfChk Config.params).toNat)
    (first : ∀ j, j < qs.length → ffTail (qs.take j) < (numFfChk Config.params).toNat) {done : List Byte} {q : Byte}
    (split : qs = done ++ q :: todo) (c : Capturing s0 r len done (q :: todo ++ rest) s) :
    ∃ t, Relation.ReflTransGen BusyStep s t ∧
      Finishing s0 r (qs.length - ((numFfChk Config.params).toNat - 1)) qs rest t := by
  induction todo generalizing done q s with
  | nil =>
    obtain ⟨goesOn, below, ends⟩ := c.sentinel_tests mode small bounded first split
    obtain rfl : qs = done ++ [q] := split
    exact c.retracted goesOn below (ends.2 run) (Nat.lt_succ_of_le small) (by rw [← run]; exact ffTail_le _)
  | cons q' todo ih =>
    obtain ⟨goesOn, below, ends⟩ := c.sentinel_tests mode small bounded first split
    have next : qs = (done ++ [q]) ++ q' :: todo := by rw [split, List.append_assoc]; rfl
    have noEnd : ¬ retracts Config.params q s := fun h => by
      have before := first (done ++ [q]).length (by rw [next]; simp)
      rw [next, List.take_left, ends.1 h] at before
      exact Nat.lt_irrefl _ before
    obtain ⟨u, one, cu⟩ := c.goes_on goesOn below noEnd
    obtain ⟨t, later, f⟩ := ih next cu
    exact ⟨t, one.trans later, f⟩

end

/-- Settles O53: RD_INIT, the size bytes, `Capturing.fixed` and RD_FINISH. -/
theorem fixedReadCaptures : Obligations.FixedReadCaptures := by
  unfold Obligations.FixedReadCaptures
  intro s r r0 r1 r2 qs rest noSched busy hx addr run noByte _ noErr bound wf mode queued limit
  obtain ⟨u, start, c⟩ := capturing_start (queue := qs ++ rest) noSched busy hx addr run noByte noErr bound wf
    (by rw [queued, List.append_assoc]; rfl)
  obtain ⟨v, capture, f⟩ := Capturing.fixed mode limit (todo := qs) rfl c
  obtain ⟨t, last, idle, ok, closed, length, bytes, echoed, left⟩ := f.ends
  obtain ⟨n, ran⟩ := runBusy_of_steps ((start.trans capture).tail last)
  refine ⟨n, t, ran, idle, ok, closed, length, ?_, echoed, left⟩
  rw [bytes, List.take_length, ite_self]

/-- Settles O54: RD_INIT, the size bytes, `Capturing.sentinel` and RD_FINISH. -/
theorem sentinelReadRetracts : Obligations.SentinelReadRetracts := by
  unfold Obligations.SentinelReadRetracts
  intro s r r0 r1 r2 qs rest len noSched busy hx addr run noByte _ noErr bound wf mode queued small bounded ffs first
    total
  have pos := (Tests.numFfChk_bounds Config.params).1
  obtain ⟨u, start, c⟩ := capturing_start (queue := qs ++ rest) noSched busy hx addr run noByte noErr bound wf
    (by rw [queued, List.append_assoc]; rfl)
  cases qs with
  | nil =>
    rw [← ffs] at pos
    exact absurd pos (by decide)
  | cons q todo =>
    obtain ⟨v, capture, f⟩ := Capturing.sentinel mode small bounded ffs first rfl c
    obtain ⟨t, last, idle, ok, closed, length, bytes, echoed, left⟩ := f.ends
    obtain ⟨n, ran⟩ := runBusy_of_steps ((start.trans capture).tail last)
    rw [← total, Nat.add_sub_cancel] at length bytes
    exact ⟨n, t, ran, idle, ok, closed, length, bytes, echoed, left⟩

end Sys2Proof.Machine

namespace Sys2Proof.Machine

section
variable {cfg : BitVec 40} {s u : State}

/-! The image a write sends, byte by byte (R151 to R154, R242) -/

theorem patchedHead_at {h : List Byte} {a : Nat} {b : Byte} (here : h[a]? = some b) :
    (patchedHead h cfg)[a]? = some (if a = 0 then patchId b cfg else if a = 1 then patchSizeCode b cfg else b) := by
  have byte : hdrByte h a = b := by rw [hdrByte, List.getD_eq_getElem?_getD, here, Option.getD_some]
  match a with
  | 0 => rw [← byte]; rfl
  | 1 => rw [← byte]; rfl
  | a + 2 =>
    rw [patchedHead, if_neg (by omega), if_neg (by omega), ← here]
    simp [Nat.add_comm 2]

theorem patchHeader_take8 {h : List Byte} (ten : h.length = 10) (cfg : BitVec 40) (s : State) :
    (patchHeader h cfg s).2.take 8 = (patchedHead h cfg).take 8 := by
  have eight : ((patchedHead h cfg).take 8).length = 8 := by simp [patchedHead, ten]
  rw [patchHeader]
  split
  · rw [List.take_append_of_le_length (by rw [eight]), List.take_take]
    rfl
  · rfl

/-- HDR_PATCH's bytes are those a write sends, where CSA holds the checksum of the bytes sent by address 8. -/
theorem patchHeader_at {h : List Byte} (ten : h.length = 10) {a : Nat} {b : Byte} (here : h[a]? = some b)
    (scfg : u.scfg = cfg) (fed : 8 ≤ a → u.csa = (csumBytes (patchedHead h cfg) s).csa) :
    (patchHeader h cfg s).2[a]? = some (patchedByte a b u) := by
  have below : a < 10 := by
    rw [← ten]
    exact (List.getElem?_eq_some_iff.1 here).1
  have eight : ((patchedHead h cfg).take 8).length = 8 := by simp [patchedHead, ten]
  have head := patchedHead_at (cfg := cfg) here
  rw [patchHeader, patchedByte, scfg]
  split
  next recompute =>
    by_cases first : a < 8
    · rw [List.getElem?_append_left (by rw [eight]; exact first), List.getElem?_take_of_lt first, head,
        if_neg (show ¬ (a = 8 ∧ _) by omega), if_neg (show ¬ (a = 9 ∧ _) by omega)]
    · rw [List.getElem?_append_right (by rw [eight]; omega), eight, fed (by omega)]
      obtain rfl | rfl : a = 8 ∨ a = 9 := by omega
      · rw [if_neg (by decide), if_neg (by decide), if_pos ⟨rfl, recompute⟩]
        rfl
      · rw [if_neg (by decide), if_neg (by decide), if_neg fun h => absurd h.1 (by decide), if_pos ⟨rfl, recompute⟩]
        rfl
  next keep =>
    rw [head, if_neg (show ¬ (a = 8 ∧ _) from fun h => keep h.2), if_neg (show ¬ (a = 9 ∧ _) from fun h => keep h.2)]

/-- The header of an image, filled up with zeros where the image is shorter. -/
def paddedHead (img : List Byte) : List Byte := (img ++ List.replicate 10 0).take 10

theorem paddedHead_length (img : List Byte) : (paddedHead img).length = 10 := by simp [paddedHead]

theorem sentImage_eq (img : List Byte) (cfg : BitVec 40) (s : State) :
    sentImage img cfg s = ((patchHeader (paddedHead img) cfg s).2 ++ img.drop 10).take img.length := rfl

theorem sentImage_length (img : List Byte) (cfg : BitVec 40) (s : State) :
    (sentImage img cfg s).length = img.length := by
  rw [sentImage_eq, List.length_take, List.length_append, patchHeader_length (paddedHead_length img), List.length_drop]
  omega

theorem sentImage_at {img : List Byte} {a : Nat} {b : Byte} (here : img[a]? = some b) (scfg : u.scfg = cfg)
    (fed : 8 ≤ a → u.csa = (csumBytes (patchedHead (paddedHead img) cfg) s).csa) :
    (sentImage img cfg s)[a]? = some (patchedByte a b u) := by
  have inside : a < img.length := (List.getElem?_eq_some_iff.1 here).1
  have ten := patchHeader_length (paddedHead_length img) cfg s
  rw [sentImage_eq, List.getElem?_take_of_lt inside]
  by_cases head : a < 10
  · rw [List.getElem?_append_left (by rw [ten]; exact head)]
    refine patchHeader_at (paddedHead_length img) ?_ scfg fed
    rw [paddedHead, List.getElem?_take_of_lt head, List.getElem?_append_left inside, here]
  · rw [List.getElem?_append_right (by rw [ten]; omega), ten, List.getElem?_drop, Nat.add_sub_cancel' (by omega), here,
      patchedByte, if_neg (by omega), if_neg (by omega), if_neg (by omega), if_neg (by omega)]

theorem sentImage_take8 {img : List Byte} (long : 8 ≤ img.length) (cfg : BitVec 40) (s : State) :
    (sentImage img cfg s).take 8 = (patchedHead (paddedHead img) cfg).take 8 := by
  rw [sentImage_eq, List.take_take, Nat.min_eq_left long,
    List.take_append_of_le_length (by rw [patchHeader_length (paddedHead_length img)]; decide),
    patchHeader_take8 (paddedHead_length img)]

/-! The checksum unit while the image is sent (R147, R241) -/

theorem csaFeed_csa_congr {t : State} (same : s.csa = t.csa) (i : Nat) (b : Byte) :
    (csaFeed i b s).csa = (csaFeed i b t).csa := by
  unfold csaFeed
  split
  · rw [csaAddHigh_csa, csaAddHigh_csa, same]
  · rw [csaAddLow_csa, csaAddLow_csa, same]

theorem csaFeedAll_append_one (i : Nat) (bs : List Byte) (b : Byte) (s : State) :
    csaFeedAll i (bs ++ [b]) s = csaFeed (i + bs.length) b (csaFeedAll i bs s) := by
  induction bs generalizing i s with
  | nil => rfl
  | cons x xs ih =>
    rw [List.cons_append, csaFeedAll, ih, csaFeedAll, List.length_cons, Nat.add_assoc, Nat.add_comm 1]

/-- CSA after the bytes `sent`: only the first eight are fed. -/
def csaSent (sent : List Byte) (s : State) : BitVec 16 := (csaFeedAll 0 (sent.take 8) (csaClear s)).csa

theorem feedSent_csaSent {t : State} {sent : List Byte} (fed : t.csa = csaSent sent s) (v : Byte) :
    (feedSent sent.length v t).csa = csaSent (sent ++ [v]) s := by
  unfold feedSent csaSent
  split
  next first =>
    rw [List.take_of_length_le (by simp; omega), csaFeedAll_append_one, Nat.zero_add]
    refine csaFeed_csa_congr ?_ _ _
    rw [fed, csaSent, List.take_of_length_le (by omega)]
  next later => rw [List.take_append_of_le_length (by omega), fed, csaSent]

end

/-! Runs with a peer that echoes -/

/-- A step taken while BUSY is 1, the peer's echo before it. -/
def EchoStep (s t : State) : Prop := s.busy = true ∧ step (echoPeer s) = .next t

theorem runEcho_of_steps {s t : State} (h : Relation.ReflTransGen EchoStep s t) : ∃ n, runEcho n s = .next t := by
  induction h using Relation.ReflTransGen.head_induction_on with
  | refl => exact ⟨0, rfl⟩
  | head first _ ih =>
    obtain ⟨n, run⟩ := ih
    refine ⟨n + 1, ?_⟩
    rw [runEcho, if_pos first.1, first.2]
    exact run

theorem echoStep_of_step {s t : State} (busy : s.busy = true) (hx : s.xstate ≠ .wrEcho) (h : step s = .next t) :
    EchoStep s t := by
  refine ⟨busy, ?_⟩
  rw [echoPeer, if_neg fun e => hx e.1, h]

/-- A write that began in `s0`, with `sent` on the wire, at image address `a` of `size` bytes. -/
structure Writing (s0 : State) (size : BitVec 24) (a : Nat) (sent : List Byte) (s : State) : Prop where
  sched : s.sched = []
  busy : s.busy = true
  noErr : s.chErr = false
  empty : s.rxq = []
  bound : s.srcBind = s0.srcBind
  sources : s.sources = s0.sources
  scfg : s.scfg = s0.scfg
  tsize : s.tsize = size
  addr : s.addr = BitVec.ofNat 24 a
  sent : s.txq = s0.txq ++ sent

section
variable {s0 s : State} {size : BitVec 24} {sent : List Byte}

/-- One token byte more on the wire. -/
theorem Writing.token_byte (w : Writing s0 size 0 ((writeToken Config.params).take s.tidx.toNat) s)
    (hx : s.xstate = .wrToken) (inside : s.tidx.toNat < (writeToken Config.params).length) :
    ∃ u, u = { s with txq := s.txq ++ [(writeToken Config.params).getD s.tidx.toNat 0] } ∧
      Writing s0 size 0 ((writeToken Config.params).take (s.tidx.toNat + 1)) u ∧
      EchoStep s (tokenNext Config.params u) := by
  refine ⟨_, rfl, { w with sent := ?_ }, echoStep_of_step w.busy (by rw [hx]; decide) ?_⟩
  · simp only
    rw [w.sent, List.append_assoc, List.take_add_one, List.getD_eq_getElem?_getD, List.getElem?_eq_getElem inside]
    rfl
  · rw [step_operation w.sched hx rfl, transferStep_wrToken _ hx, tokenStep, transmit_sends w.noErr]

/-- The token, from its byte TIDX on (R240). -/
theorem Writing.token (k : Nat) (w : Writing s0 size 0 ((writeToken Config.params).take s.tidx.toNat) s)
    (hx : s.xstate = .wrToken) (left : (writeToken Config.params).length = s.tidx.toNat + k + 1) :
    ∃ t, Relation.ReflTransGen EchoStep s t ∧ Writing s0 size 0 (writeToken Config.params) t ∧ t.xstate = .wrSize ∧
      t.tidx = 0 := by
  induction k generalizing s with
  | zero =>
    obtain ⟨u, rfl, wu, one⟩ := w.token_byte hx (by omega)
    rw [tokenNext_last (by simp only; omega)] at one
    rw [List.take_of_length_le (Nat.le_of_eq left)] at wu
    exact ⟨_, .single one, { wu with }, rfl, rfl⟩
  | succ k ih =>
    obtain ⟨u, rfl, wu, one⟩ := w.token_byte hx (by omega)
    rw [tokenNext_more (by simp only; omega)] at one
    have short := (writeToken_length Config.params).2
    have next : (s.tidx + 1).toNat = s.tidx.toNat + 1 := by bv_omega
    rw [← next] at wu
    obtain ⟨t, later, wt⟩ := ih
      (s := { s with txq := s.txq ++ [(writeToken Config.params).getD s.tidx.toNat 0], tidx := s.tidx + 1 })
      { wu with } hx (by simp only [next]; omega)
    exact ⟨t, .head one later, wt⟩

theorem step_sizeLow (noSched : s.sched = []) (hx : s.xstate = .wrSize) (noErr : s.chErr = false)
    (second : s.tidx ≠ 0) : step s = .next (writeLoop (csaClear { s with txq := s.txq ++ [s.tsize.extractLsb' 0 8] })) := by
  rw [step_operation noSched hx rfl, transferStep_wrSize _ hx, sizeStep_second second, transmit_sends noErr]

/-- The two size bytes, high first; then CSA is clear and the payload loop is next (R240, R241). -/
theorem Writing.sizes (w : Writing s0 size 0 sent s) (hx : s.xstate = .wrSize) (first : s.tidx = 0) :
    ∃ u, Relation.ReflTransGen EchoStep s (writeLoop u) ∧
      Writing s0 size 0 (sent ++ [size.extractLsb' 8 8, size.extractLsb' 0 8]) u ∧ u.csa = 0 ∧
      u.xstate = .wrSize := by
  have notEcho : s.xstate ≠ .wrEcho := by rw [hx]; decide
  have high : step s = .next { s with txq := s.txq ++ [s.tsize.extractLsb' 8 8], tidx := 1 } := by
    rw [step_operation w.sched hx rfl, transferStep_wrSize _ hx, sizeStep_first first, transmit_sends w.noErr]
  have low := step_sizeLow (s := { s with txq := s.txq ++ [s.tsize.extractLsb' 8 8], tidx := 1 }) w.sched hx w.noErr
    (show (1 : BitVec 16) ≠ 0 by decide)
  refine ⟨_, .head (echoStep_of_step w.busy notEcho high) (.single (echoStep_of_step w.busy notEcho low)),
    { w with sent := ?_ }, rfl, hx⟩
  simp [w.sent, w.tsize]

/-! The payload loop (R241 to R243) -/

theorem sendStep_sends {r a : Nat} {b : Byte} (bound : s.srcBind = some r) (noErr : s.chErr = false)
    (addr : s.addr.toNat = a) (here : Memory.read (Store.get s.sources r) (6 + a) = some b) :
    sendStep s = .next
      { s with
        csa := (feedSent a (patchedByte a b s) s).csa, lastTx := patchedByte a b s, txq := s.txq ++ [patchedByte a b s],
        xstate := .wrEcho } := by
  subst addr
  rw [sendStep_eq bound here, sendByte_sends noErr, feedSent_eq]

/-- The peer's echo is equal, so the loop goes on with the next address. -/
theorem step_echoed (noSched : s.sched = []) (hx : s.xstate = .wrEcho) (noErr : s.chErr = false) (empty : s.rxq = []) :
    step (echoPeer s) = .next (writeLoop { s with rxq := [], timer := false, addr := s.addr + 1 }) := by
  have peer : echoPeer s = { s with rxq := [s.lastTx] } := if_pos ⟨hx, empty⟩
  rw [peer, step_operation (s := { s with rxq := [s.lastTx] }) noSched hx rfl]
  have taken := awaitByte_takes (s := { s with rxq := [s.lastTx] }) noErr rfl compareEcho
  exact (transferStep_wrEcho (s := { s with rxq := [s.lastTx] }) _ hx).trans (taken.trans
    (compareEcho_same (s := { s with rxq := [], timer := false }) hx))

/-- One payload byte sent, echoed and counted. -/
theorem Writing.payload_byte {r a : Nat} {b : Byte} (w : Writing s0 size a sent s) (bound : s0.srcBind = some r)
    (small : a < 2 ^ 24) (here : Memory.read (Store.get s0.sources r) (6 + a) = some b) (more : a < size.toNat) :
    ∃ u, Relation.ReflTransGen EchoStep (writeLoop s) (writeLoop u) ∧
      Writing s0 size (a + 1) (sent ++ [patchedByte a b s]) u ∧ u.csa = (feedSent a (patchedByte a b s) s).csa := by
  have addr : s.addr.toNat = a := by rw [w.addr, addr_exact small]
  rw [writeLoop_more (by rw [addr, w.tsize]; exact more)]
  have sends : step { s with xstate := .wrSend } = .next
      { s with
        csa := (feedSent a (patchedByte a b s) s).csa, lastTx := patchedByte a b s, txq := s.txq ++ [patchedByte a b s],
        xstate := .wrEcho } := by
    rw [step_operation (s := { s with xstate := .wrSend }) w.sched rfl rfl, transferStep_wrSend _ rfl,
      sendStep_sends (s := { s with xstate := .wrSend }) (w.bound.trans bound) w.noErr addr (by rw [w.sources, here]),
      feedSent_eq, feedSent_eq]
    rfl
  have echoed := step_echoed
    (s := { s with
      csa := (feedSent a (patchedByte a b s) s).csa, lastTx := patchedByte a b s, txq := s.txq ++ [patchedByte a b s],
      xstate := .wrEcho }) w.sched rfl w.noErr w.empty
  have notEcho : XState.wrSend ≠ .wrEcho := by decide
  refine ⟨_, .head (echoStep_of_step w.busy notEcho sends) (.single ⟨w.busy, echoed⟩),
    { w with empty := rfl, addr := ?_, sent := ?_ }, rfl⟩
  · simp only [w.addr, BitVec.ofNat_add]
    rfl
  · simp only [w.sent, List.append_assoc]

/-- The payload loop sends the image from address `a` on, and ends with STATUS OK. -/
theorem Writing.payload {r : Nat} {pre img : List Byte} (bound : s0.srcBind = some r) (small : img.length < 2 ^ 24)
    (here : ∀ a b, img[a]? = some b → Memory.read (Store.get s0.sources r) (6 + a) = some b)
    (whole : size.toNat = img.length) (k : Nat) {a : Nat} (left : img.length = a + k)
    (w : Writing s0 size a sent s) (soFar : sent = pre ++ (sentImage img s0.scfg s0).take a)
    (fed : s.csa = csaSent ((sentImage img s0.scfg s0).take a) s0) :
    ∃ t, Relation.ReflTransGen EchoStep (writeLoop s) t ∧ t.busy = false ∧ t.status = 0x00 ∧ t.xstate = .xIdle ∧
      t.addr.toNat = img.length ∧ t.rxq = [] ∧ t.txq = s0.txq ++ (pre ++ sentImage img s0.scfg s0) := by
  have length := sentImage_length img s0.scfg s0
  induction k generalizing a s sent with
  | zero =>
    obtain rfl : img.length = a := left
    have addr : s.addr.toNat = img.length := by rw [w.addr, addr_exact small]
    rw [writeLoop_done (by rw [addr, w.tsize, whole]; exact Nat.lt_irrefl _)]
    refine ⟨_, .refl, rfl, rfl, rfl, addr, w.empty, ?_⟩
    rw [← length, List.take_length] at soFar
    rw [← soFar]
    exact w.sent
  | succ k ih =>
    have inside : a < img.length := by omega
    have atA : img[a]? = some img[a] := List.getElem?_eq_getElem inside
    have byte : (sentImage img s0.scfg s0)[a]? = some (patchedByte a img[a] s) := by
      refine sentImage_at atA w.scfg fun eight => ?_
      rw [fed, csaSent, List.take_take, Nat.min_eq_left eight, sentImage_take8 (by omega)]
      rfl
    have next : (sentImage img s0.scfg s0).take (a + 1) =
        (sentImage img s0.scfg s0).take a ++ [patchedByte a img[a] s] := by
      rw [List.take_add_one, byte]
      rfl
    obtain ⟨u, steps, wu, csa⟩ := w.payload_byte bound (Nat.lt_trans inside small) (here a _ atA)
      (by rw [whole]; exact inside)
    have sentLength : ((sentImage img s0.scfg s0).take a).length = a := by
      rw [List.length_take, length]
      omega
    have feeds := feedSent_csaSent fed (patchedByte a img[a] s)
    rw [sentLength] at feeds
    obtain ⟨t, later, ends⟩ := ih (by omega) wu (by rw [soFar, List.append_assoc, next]) (by rw [csa, feeds, next])
    exact ⟨t, steps.trans later, ends⟩

/-- The check of a valid source and the drain of an empty RXQ (R238, R239). -/
theorem writing_start {r : Nat} {m : List Byte} (noSched : s.sched = []) (busy : s.busy = true) (hx : s.xstate = .wrCheck)
    (addr : s.addr = 0) (noErr : s.chErr = false) (empty : s.rxq = []) (bound : s.srcBind = some r)
    (source : m = Memory.bytes (Store.get s.sources r)) (six : 6 ≤ m.length) (isContainer : m.take 3 = magic)
    (small : (containerSize m).toNat ≤ 0xFFFF) (whole : (containerSize m).toNat ≤ m.length - 6) :
    ∃ t, Relation.ReflTransGen EchoStep s t ∧ Writing s (containerSize m) 0 [] t ∧ t.xstate = .wrToken ∧
      t.tidx = 0 := by
  have accepted : checkSource m s = startDrain (containerSize m) s := by
    rw [checkSource, if_neg (by simp [isContainer]; omega),
      if_neg (show ¬ Config.hwLimit < _ from Nat.not_lt.2 small), if_neg (Nat.not_lt.2 whole)]
  have checked : step s = .next (startDrain (containerSize m) s) := by
    rw [step_operation noSched hx rfl, transferStep_wrCheck _ hx, writeCheck_eq bound, ← source, accepted]
  have drained : step (startDrain (containerSize m) s) =
      .next { startDrain (containerSize m) s with xstate := .wrToken, tidx := 0 } :=
    (step_operation (s := startDrain (containerSize m) s) noSched rfl rfl).trans
      ((transferStep_wrDrain _ rfl).trans (drainStep_done (congrArg List.length empty)))
  have notEcho : s.xstate ≠ .wrEcho := by rw [hx]; decide
  have draining : XState.wrDrain ≠ .wrEcho := by decide
  refine ⟨_, .head (echoStep_of_step busy notEcho checked) (.single (echoStep_of_step busy draining drained)), ?_, rfl, rfl⟩
  exact
    { sched := noSched, busy, noErr, empty, addr
      bound := rfl
      sources := rfl
      scfg := rfl
      tsize := rfl
      sent := (List.append_nil _).symm }

end

theorem sizeBytes_eq {size : BitVec 24} {n : Nat} (whole : size.toNat = n) :
    [size.extractLsb' 8 8, size.extractLsb' 0 8] = [BitVec.ofNat 8 (n / 256), BitVec.ofNat 8 (n % 256)] := by
  have high : size.extractLsb' 8 8 = BitVec.ofNat 8 (n / 256) := by
    rw [← whole, BitVec.extractLsb', Nat.shiftRight_eq_div_pow]
  have low : size.extractLsb' 0 8 = BitVec.ofNat 8 (n % 256) := by
    apply BitVec.eq_of_toNat_eq
    rw [BitVec.extractLsb'_toNat, whole, BitVec.toNat_ofNat, Nat.shiftRight_zero]
    omega
  rw [high, low]

/-- Settles O50: the check and the drain, the token, the size bytes and the payload loop. -/
theorem writeSendsPatchedImage : Obligations.WriteSendsPatchedImage := by
  unfold Obligations.WriteSendsPatchedImage
  intro s r m img noSched busy hx addr noErr empty _ bound wf source six isContainer image whole small
  have length : (containerSize m).toNat ≤ m.length - 6 := by
    rw [← whole, image, List.length_take, List.length_drop]
    exact Nat.min_le_right _ _
  have here (a : Nat) (b : Byte) (h : img[a]? = some b) : Memory.read (Store.get s.sources r) (6 + a) = some b := by
    have inside : a < (containerSize m).toNat := by
      rw [← whole]
      exact (List.getElem?_eq_some_iff.1 h).1
    rw [image, List.getElem?_take_of_lt inside, List.getElem?_drop] at h
    rw [read_of_wf (store_get_wf wf), ← source, h]
  obtain ⟨s1, start, w1, hx1, first⟩ := writing_start noSched busy hx addr noErr empty bound source six isContainer
    (by rw [← whole]; exact small) length
  have zero : s1.tidx.toNat = 0 := by rw [first]; rfl
  have two := (writeToken_length Config.params).1
  obtain ⟨s2, token, w2, hx2, second⟩ := Writing.token ((writeToken Config.params).length - 1)
    (by rw [zero]; exact w1) hx1 (by omega)
  obtain ⟨s3, sizes, w3, fed, -⟩ := w2.sizes hx2 second
  rw [sizeBytes_eq whole.symm] at w3
  obtain ⟨t, payload, idle, ok, closed, count, left, sent⟩ := w3.payload bound (by omega) here whole.symm img.length
    (Nat.zero_add _).symm (List.append_nil _).symm fed
  obtain ⟨n, ran⟩ := runEcho_of_steps (((start.trans token).trans sizes).trans payload)
  refine ⟨n, t, ran, idle, ok, closed, count, left, ?_⟩
  rw [sent]
  simp only [List.append_assoc]

end Sys2Proof.Machine
